-- ==== Sys2Proof/Word.lean ====
section
/-! DEFINITION. The word types of the core (`00_scope.md` section 5; widths of `00_scope.md` R3).
Bit 0 is the least significant bit and every value is unsigned. -/

namespace Sys2Proof

/-- A byte: a general register, a timer, a memory cell (R3). -/
abbrev Byte := BitVec 8

/-- A 16-bit word: an instruction word, `I`, `pc`, a `STACK` entry (R3). -/
abbrev Word := BitVec 16

/-- A 12-bit address operand, the field `nnn` (R62). -/
abbrev Addr := BitVec 12

/-- The index of a general register V0 to VF, or of a key (R10, R20). -/
abbrev Reg := Fin 16

end Sys2Proof
end

