-- ==== Sys2Proof/Config.lean ====
section
/-! DEFINITION. The implementation parameters of `00_scope.md` R3 and R4 that give the state its shape, the types of
the two decode and shift parameters, and the free value of the model.

`STACK_POLICY` (strict) and `ADDR_POLICY` (validate and fault) of R4 are not switches here: the other policies have no
definition in the spec (`93_implementation_defined.md` U20; R44: "The address is never reduced modulo 4096"), so the strict and
validating readings are written into the operations. `CLIP_POLICY` (drop) is what R131 prescribes and is written into
`drawPixel`. `FONT_BASE`, `FONT_TABLE` and `SHIFT_SRC` stand in Machine/Params.lean, `SECONDARY_KEY` in Decode.lean. -/

namespace Sys2Proof.Config

/-- `MEM_SIZE` (R3): addresses 0 to 4095. -/
abbrev memSize : Nat := 4096

/-- `PROG_BASE` (R3): where a program image is loaded and where `pc` starts. -/
abbrev progBase : Nat := 0x200

/-- `MAX_PROG_LEN` (R4): `4096 - 0x200`. -/
abbrev maxProgLen : Nat := 3584

/-- `STACK_DEPTH` (R3). -/
abbrev stackDepth : Nat := 16

/-- `GLYPH_STRIDE` (R4): bytes of one font glyph. -/
abbrev glyphStride : Nat := 5

/-- `DISPLAY_W` (R4, the spec's decision D4). -/
abbrev displayW : Nat := 64

/-- `DISPLAY_H` (R4, the spec's decision D4). -/
abbrev displayH : Nat := 32

/-- The readings of `SHIFT_SRC` (R4, D14, U4): which register `SHR` and `SHL` shift. -/
inductive ShiftSource where
  /-- shift `V[x]` in place -/
  | x
  /-- shift `V[y]` into `V[x]` -/
  | y
  deriving DecidableEq, Repr

/-- The readings of `SECONDARY_KEY` (D2, U2): what selects an instruction inside families 0 and E. -/
inductive SecondaryKey where
  /-- all 12 low bits of family 0, the low byte of family E -/
  | fullMatch
  /-- the low nibble alone -/
  | nibble
  deriving DecidableEq, Repr

/-- FREE VALUE (R28: "No rule constrains the value"; U9 `any value`): the byte that the `k`-th execution of `RND`
draws. Nothing in Lean can evaluate it. Log entry 2. -/
opaque rndByte : Nat → Byte

end Sys2Proof.Config
end

