-- ==== Sys2Proof/Machine/Params.lean ====
section
/-! DEFINITION. The parameters of `00_scope.md` R4 that a test could show wrong: the font and the shift source. -/

namespace Sys2Proof.Machine

open Sys2Proof

/-- `FONT_BASE` (R4, D5). -/
def fontBase : Nat := 0x050

/-- The glyphs 0 to 7 of `10_state.md` R22, five bytes each, top row first. -/
def fontLow : List Byte :=
  [0xF0, 0x90, 0x90, 0x90, 0xF0] ++ [0x20, 0x60, 0x20, 0x20, 0x70] ++
  [0xF0, 0x10, 0xF0, 0x80, 0xF0] ++ [0xF0, 0x10, 0xF0, 0x10, 0xF0] ++
  [0x90, 0x90, 0xF0, 0x10, 0x10] ++ [0xF0, 0x80, 0xF0, 0x10, 0xF0] ++
  [0xF0, 0x80, 0xF0, 0x90, 0xF0] ++ [0xF0, 0x10, 0x20, 0x40, 0x40]

/-- The glyphs 8 to F of `10_state.md` R22. -/
def fontHigh : List Byte :=
  [0xF0, 0x90, 0xF0, 0x90, 0xF0] ++ [0xF0, 0x90, 0xF0, 0x10, 0xF0] ++
  [0xF0, 0x90, 0xF0, 0x90, 0x90] ++ [0xE0, 0x90, 0xE0, 0x90, 0xE0] ++
  [0xF0, 0x80, 0x80, 0x80, 0xF0] ++ [0xE0, 0x90, 0x90, 0x90, 0xE0] ++
  [0xF0, 0x80, 0xF0, 0x80, 0xF0] ++ [0xF0, 0x80, 0xF0, 0x80, 0x80]

/-- `FONT_TABLE` (R4, R22). -/
def fontTable : List Byte := fontLow ++ fontHigh

/-- What an address that no entry of `Memory` lists reads as: the reset contents, the font table at `FONT_BASE` and zero
elsewhere (R18, R47). -/
def resetByte (a : Nat) : Byte :=
  if fontBase ≤ a then fontTable.getD (a - fontBase) 0 else 0

/-- `SHIFT_SRC` (R4, D14): shift in place. -/
def shiftSrc : Config.ShiftSource := .x

end Sys2Proof.Machine
end

