-- ==== Sys2Proof/Machine/State.lean ====
section
/-! DEFINITION. The state of the core as plain data (`10_state.md`), the fault and refusal reasons, and the state right after
reset with no program image (R29, R180). -/

namespace Sys2Proof.Machine

open Sys2Proof

/-- `FAULT.cause` (R24), with the causes of `60_exceptions.md` section 2. -/
inductive Cause where
  /-- code 0: no fault -/
  | none
  /-- code 1: program image longer than 3584 bytes (R151); raised by reset only -/
  | invalidProgramSize
  /-- code 2: `CALL` at `sp = 16` (R152) -/
  | stackOverflow
  /-- code 3: `RET` at `sp = 0` (R153) -/
  | stackUnderflow
  /-- code 4: an access above `0xFFF` (R154) -/
  | addressOutOfRange
  deriving DecidableEq, Repr

/-- Main memory `MEM` (R18) as the list of the cells that differ from their reset contents; the canonical form is
`Memory.wf`. -/
abbrev Memory := List Host.Cell

/-- The framebuffer `FB` (R19): rows from the top, in each row the pixels from the left, `true` is on. -/
abbrev Framebuffer := Vector (Vector Bool Config.displayW) Config.displayH

/-- The framebuffer with every pixel off. -/
def blankFramebuffer : Framebuffer :=
  Vector.replicate Config.displayH (Vector.replicate Config.displayW false)

/-- The stack pointer: its legal values 0 to 16 (R16; five bits hold it, D18). Log entry 5. -/
abbrev StackPointer := Fin (Config.stackDepth + 1)

/-- The whole state (R29 lists the elements). -/
structure State where
  /-- general registers V0 to VF (R10) -/
  v : Vector Byte 16
  /-- index register `I` (R13) -/
  i : Word
  /-- program counter (R14) -/
  pc : Word
  /-- stack pointer, the number of entries in use (R16) -/
  sp : StackPointer
  /-- call stack `STACK` (R15) -/
  stack : Vector Word Config.stackDepth
  /-- delay timer `DT` (R17) -/
  dt : Byte
  /-- sound timer `ST` (R17) -/
  st : Byte
  /-- main memory `MEM` (R18) -/
  mem : Memory
  /-- framebuffer `FB` (R19) -/
  fb : Framebuffer
  /-- key-state latch `KEY`, `true` is pressed (R20) -/
  key : Vector Bool 16
  /-- fault latch `FAULT.cause` (R24) -/
  fault : Cause
  /-- instruction word `IR` of the current tick (R25) -/
  ir : Word
  /-- the model's own field: how many `RND` bytes have been drawn (R28); log entry 2 -/
  rndCount : Nat
  deriving DecidableEq, Repr

/-- The state after reset with an empty program image (R180, R29). `ir` and `rndCount` have no value in the spec: log
entries 1 and 2. -/
def State.reset : State where
  v := Vector.replicate 16 0
  i := 0
  pc := 0x0200
  sp := 0
  stack := Vector.replicate Config.stackDepth 0
  dt := 0
  st := 0
  mem := []
  fb := blankFramebuffer
  key := Vector.replicate 16 false
  fault := .none
  ir := 0
  rndCount := 0

/-- Why the model can give no state. No tick ends in one: a fault inside a tick is latched in `State.fault` (R156). -/
inductive Fault where
  /-- Raised by the reset operation `construct` (and `hostReset` over it) on a program image of more than 3584 bytes (R181: "A
  model returns an error from reset and produces no machine state"). Safe: nothing can be proved of a state that is not
  there. -/
  | invalidProgramSize
  deriving DecidableEq, Repr

/-- Why an instruction has no meaning. -/
inductive Refusal where
  /-- Raised by an arm of `exec` that has no meaning yet, with the mnemonic of the opcode table. Safe: the model stops. No arm
  raises it: every instruction has its meaning. -/
  | notModelled (mnemonic : String)
  deriving DecidableEq, Repr

end Sys2Proof.Machine
end

