-- ==== Sys2Proof/Machine/Ops.lean ====
section
/-! DEFINITION. The named operations over memory, registers, stack, framebuffer, keys, timers and the fault latch. Every
read and write of a meaning goes through them. -/

namespace Sys2Proof.Machine

open Sys2Proof

/-! ## Memory (`20_memory.md`) -/

/-- The content of a cell: its entry, or its reset contents (R43, R18). -/
def Memory.get (m : Memory) (a : Nat) : Byte :=
  match m with
  | [] => resetByte a
  | (b, v) :: rest => if b = a then v else Memory.get rest a

/-- The cells other than `a`. -/
def Memory.erase (m : Memory) (a : Nat) : Memory := m.filter fun c => c.1 != a

/-- Put an entry before the first entry with a larger address. -/
def Memory.insert (m : Memory) (a : Nat) (v : Byte) : Memory :=
  match m with
  | [] => [(a, v)]
  | c :: rest => if c.1 < a then c :: Memory.insert rest a v else (a, v) :: c :: rest

/-- Write a cell and nothing else (R43), keeping the canonical form. -/
def Memory.set (m : Memory) (a : Nat) (v : Byte) : Memory :=
  if v = resetByte a then m.erase a else (m.erase a).insert a v

/-- The canonical form: addresses exist (R18), rise strictly, and no entry equals the reset contents. -/
def Memory.wf (m : Memory) : Bool :=
  match m with
  | [] => true
  | c :: rest =>
    decide (c.1 < Config.memSize) && c.2 != resetByte c.1 && rest.all (fun d => decide (c.1 < d.1)) && Memory.wf rest

/-- Whether all of `n` bytes at `addr` exist: "`addr + n - 1 > 0xFFF`" raises (R44, R49), on natural numbers, and no byte
is no access. -/
def rangeOk (addr n : Nat) : Bool := decide (n = 0) || decide (addr + n - 1 ≤ 0xFFF)

/-- `MemRead(addr, 1)` (R44); `none` is `AddressOutOfRange`. -/
def memRead1 (m : Memory) (addr : Nat) : Option Byte :=
  if rangeOk addr 1 then some (m.get addr) else none

/-- `MemRead(addr, 2)` (R44), the byte at `addr` high; `none` is `AddressOutOfRange`. -/
def memRead2 (m : Memory) (addr : Nat) : Option Word :=
  if rangeOk addr 2 then some (m.get addr ++ m.get (addr + 1)) else none

/-- `MemWrite(addr, 1, v)` (R45); `none` is `AddressOutOfRange`. -/
def memWrite1 (m : Memory) (addr : Nat) (v : Byte) : Option Memory :=
  if rangeOk addr 1 then some (m.set addr v) else none

/-- Write bytes at rising addresses, in order (R40, R50). -/
def Memory.setBlock (m : Memory) (addr : Nat) (bytes : List Byte) : Memory :=
  match bytes with
  | [] => m
  | b :: rest => (m.set addr b).setBlock (addr + 1) rest

/-- The byte reads of one instruction, `n` of them at rising addresses, all or nothing (R49). -/
def readBlock (m : Memory) (addr n : Nat) : Option (List Byte) :=
  if rangeOk addr n then some ((List.range n).map fun k => m.get (addr + k)) else none

/-- The byte writes of one instruction at rising addresses, all or nothing (R49). -/
def writeBlock (m : Memory) (addr : Nat) (bytes : List Byte) : Option Memory :=
  if rangeOk addr bytes.length then some (m.setBlock addr bytes) else none

/-- The model's read of one byte of the state's memory; `none` where no byte exists (R18). -/
def State.readByte (s : State) (a : Nat) : Option Byte := memRead1 s.mem a

/-- Replace the memory. -/
def State.writeMem (s : State) (m : Memory) : State := { s with mem := m }

/-! ## Registers -/

/-- The register VF, index 15 (R11). -/
def vf : Reg := 15

/-- `V[x]` (R10). -/
def State.readV (s : State) (x : Reg) : Byte := s.v[x]

/-- `V[x] <- b` (R10). -/
def State.writeV (s : State) (x : Reg) (b : Byte) : State := { s with v := s.v.set x b }

/-- `V[k] <- bytes[0]`, `V[k+1] <- bytes[1]`, ... (R125). -/
def loadRegs (v : Vector Byte 16) (k : Nat) (bytes : List Byte) : Vector Byte 16 :=
  match bytes with
  | [] => v
  | b :: rest => loadRegs (v.setIfInBounds k b) (k + 1) rest

/-- Replace registers from V0 up (R125). -/
def State.writeRegs (s : State) (bytes : List Byte) : State := { s with v := loadRegs s.v 0 bytes }

/-- The values of V0 to `V[x]`, V0 first (R124). -/
def State.regsUpTo (s : State) (x : Reg) : List Byte := ((List.finRange 16).take (x.val + 1)).map s.readV

/-- `I <- w` (R13). -/
def State.writeI (s : State) (w : Word) : State := { s with i := w }

/-- `pc <- w` (R14). -/
def State.writePc (s : State) (w : Word) : State := { s with pc := w }

/-- `DT <- b` (R17). -/
def State.writeDt (s : State) (b : Byte) : State := { s with dt := b }

/-- `ST <- b` (R17). -/
def State.writeSt (s : State) (b : Byte) : State := { s with st := b }

/-! ## Call stack -/

/-- `STACK[sp] <- w; sp <- sp + 1` (R16); `none` when the stack is full. -/
def State.push (s : State) (w : Word) : Option State :=
  if h : s.sp.val < Config.stackDepth then
    some { s with stack := s.stack.set s.sp.val w h, sp := ⟨s.sp.val + 1, Nat.succ_lt_succ h⟩ }
  else none

/-- `sp <- sp - 1`, then read `STACK[sp]` (R16); the entry keeps its content (R15); `none` when the stack is empty. -/
def State.pop (s : State) : Option (Word × State) :=
  if h : s.sp.val = 0 then none
  else
    have hk : s.sp.val - 1 < Config.stackDepth := by have := s.sp.isLt; omega
    some (s.stack[s.sp.val - 1]'hk, { s with sp := ⟨s.sp.val - 1, Nat.lt_succ_of_lt hk⟩ })

/-! ## Framebuffer -/

/-- `FB[r][c]` (R19); off outside the display, where there is no pixel. -/
def Framebuffer.pixel (fb : Framebuffer) (r c : Nat) : Bool :=
  if h : r < Config.displayH ∧ c < Config.displayW then (fb[r]'h.1)[c]'h.2 else false

/-- `FB[r][c] <- on`; nothing outside the display. -/
def Framebuffer.setPixel (fb : Framebuffer) (r c : Nat) (on : Bool) : Framebuffer :=
  if h : r < Config.displayH then fb.set r ((fb[r]'h).setIfInBounds c on) h else fb

/-- Replace the framebuffer. -/
def State.writeFb (s : State) (fb : Framebuffer) : State := { s with fb := fb }

/-! ## Keys -/

/-- `KEY[k]` (R20). -/
def State.readKey (s : State) (k : Reg) : Bool := s.key[k]

/-- The least `k` with `KEY[k] = 1` (R142). -/
def State.lowestKey (s : State) : Option Reg := (List.finRange 16).find? s.readKey

/-- The host's write of one key flag (R172). -/
def State.writeKey (s : State) (k : Reg) (pressed : Bool) : State := { s with key := s.key.set k pressed }

/-! ## Instruction word and `RND` input -/

/-- `IR <- w` (R25). -/
def State.writeIr (s : State) (w : Word) : State := { s with ir := w }

/-- The next byte of the `RND` input (R28): a free value. -/
def State.rndByte (s : State) : Byte := Config.rndByte s.rndCount

/-- The byte of the `RND` input is consumed (R28: "used once", R170). -/
def State.consumeRnd (s : State) : State := { s with rndCount := s.rndCount + 1 }

/-! ## Timers -/

/-- One count down, saturating at zero (R17). -/
def countDown (b : Byte) : Byte := if b = 0 then 0 else b - 1

/-- Step 4 of the tick (R84): both timers count down. -/
def State.timerTick (s : State) : State := { s with dt := countDown s.dt, st := countDown s.st }

/-! ## Faults (`60_exceptions.md`) -/

/-- Whether the core is halted (R24: "While `cause != 0` the core is halted"). -/
def State.halted (s : State) : Bool := s.fault != .none

/-- Fault entry (R156), the one operation every fault of a tick goes through: `FAULT.cause <- code(F)` and nothing else. A
meaning calls it before it has written anything, so that no write of the step takes effect; `pc` keeps the advanced value
(R83, R157). There is no vector and no saved state; the only way out is reset (R159), `hostReset` in
Machine/HostInterface.lean. -/
def State.raise (s : State) (c : Cause) : State := { s with fault := c }

/-- The number of a cause, the 3 bits the host reads (R24). -/
def Cause.code (c : Cause) : BitVec 3 :=
  match c with
  | .none => 0
  | .invalidProgramSize => 1
  | .stackOverflow => 2
  | .stackUnderflow => 3
  | .addressOutOfRange => 4

end Sys2Proof.Machine
end

