-- ==== Sys2Proof/Machine/Operands.lean ====
section
/-! DEFINITION. Operand forms: targets, the skip, the base-plus-offset address, the font address, the key selector, the shift
operand, the decimal digits. A general register operand is `State.readV`. -/

namespace Sys2Proof.Machine

open Sys2Proof

/-- `zext_16(nnn)` (R63). -/
def addrTarget (nnn : Addr) : Word := nnn.setWidth 16

/-- `zext_16(b)` of a register value (R93, R121). -/
def zextByte (b : Byte) : Word := b.setWidth 16

/-- `pc <- pc + 2` when the condition holds: skip one instruction word (R94, R98). -/
def State.skipIf (s : State) (c : Bool) : State := if c then s.writePc (s.pc + 2) else s

/-- The base `I` of a data access as a natural number, with all 16 bits (R126, R49). -/
def State.base (s : State) : Nat := s.i.toNat

/-- `FONT_BASE + 5 * V[x]` (R122), on the whole 8-bit value (D16). -/
def fontAddress (b : Byte) : Word := BitVec.ofNat 16 (fontBase + Config.glyphStride * b.toNat)

/-- The low four bits of a register value, which select the key (R140, D15). -/
def keySelect (b : Byte) : Reg := (b.extractLsb' 0 4).toFin

/-- The register a shift shifts (R108, R110; `SHIFT_SRC`, D14). -/
def shiftOperand (x y : Reg) : Reg :=
  match shiftSrc with
  | .x => x
  | .y => y

/-- Hundreds, tens and ones of a register value (R123). -/
def bcdDigits (b : Byte) : List Byte :=
  [BitVec.ofNat 8 (b.toNat / 100), BitVec.ofNat 8 (b.toNat / 10 % 10), BitVec.ofNat 8 (b.toNat % 10)]

end Sys2Proof.Machine
end

