-- ==== Sys2Proof/Machine/ControlFlow.lean ====
section
/-! DEFINITION. Control flow (`41_control_flow.md`) and the no-op handler of undefined words (`30_encoding.md` R68). A meaning
runs in the execute step of a tick, where `pc` already holds the address of the instruction plus 2 (R82). -/

namespace Sys2Proof.Machine

open Sys2Proof

/-- The no-op handler: "performs no state mutation" (R68). -/
def execNoop (s : State) : Host.Outcome State Fault Refusal := .next s

/-- `RET` (R90). -/
def execRet (s : State) : Host.Outcome State Fault Refusal :=
  match s.pop with
  | none => .next (s.raise .stackUnderflow)
  | some (w, t) => .next (t.writePc w)

/-- `JP nnn` (R91). -/
def execJp (nnn : Addr) (s : State) : Host.Outcome State Fault Refusal := .next (s.writePc (addrTarget nnn))

/-- `CALL nnn` (R92). -/
def execCall (nnn : Addr) (s : State) : Host.Outcome State Fault Refusal :=
  match s.push s.pc with
  | none => .next (s.raise .stackOverflow)
  | some t => .next (t.writePc (addrTarget nnn))

/-- `JP V0, nnn` (R93); the sum is kept to 16 bits and not masked (D12). -/
def execJpV0 (nnn : Addr) (s : State) : Host.Outcome State Fault Refusal :=
  .next (s.writePc (addrTarget nnn + zextByte (s.readV 0)))

/-- `SE Vx, kk` (R94). -/
def execSeImm (x : Reg) (kk : Byte) (s : State) : Host.Outcome State Fault Refusal :=
  .next (s.skipIf (s.readV x == kk))

/-- `SNE Vx, kk` (R95). -/
def execSneImm (x : Reg) (kk : Byte) (s : State) : Host.Outcome State Fault Refusal :=
  .next (s.skipIf (s.readV x != kk))

/-- `SE Vx, Vy` (R96). -/
def execSeReg (x y : Reg) (s : State) : Host.Outcome State Fault Refusal :=
  .next (s.skipIf (s.readV x == s.readV y))

/-- `SNE Vx, Vy` (R97). -/
def execSneReg (x y : Reg) (s : State) : Host.Outcome State Fault Refusal :=
  .next (s.skipIf (s.readV x != s.readV y))

end Sys2Proof.Machine
end

