-- ==== Sys2Proof/Machine/Flags.lean ====
section
/-! DEFINITION. The flag computations of the six flag-writing instructions (R12) and the order of the writes (R11). -/

namespace Sys2Proof.Machine

open Sys2Proof

/-- A flag as VF holds it, `0x00` or `0x01` (R12). -/
def flagByte (f : Bool) : Byte := if f then 1 else 0

/-- Carry out of an 8-bit addition (R106): `s > 255`. -/
def carryOut (a b : Byte) : Bool := decide (a.toNat + b.toNat > 255)

/-- No borrow out of `a - b` (R107, R109): `a >= b`. -/
def noBorrow (a b : Byte) : Bool := decide (a.toNat ≥ b.toNat)

/-- The bit a right shift by one shifts out, `a[0]` (R108). -/
def shiftedOutRight (a : Byte) : Bool := a.getLsbD 0

/-- The bit a left shift by one shifts out, `a[7]` (R110). -/
def shiftedOutLeft (a : Byte) : Bool := a.getLsbD 7

/-- Write VF as a flag. -/
def State.writeFlag (s : State) (f : Bool) : State := s.writeV vf (flagByte f)

/-- Write the result to `V[x]`, then the flag to VF, last (R11): with `x = 0xF` the result is lost. -/
def State.writeResultFlag (s : State) (x : Reg) (r : Byte) (f : Bool) : State := (s.writeV x r).writeFlag f

end Sys2Proof.Machine
end

