-- ==== Sys2Proof/Machine/Display.lean ====
section
/-! DEFINITION. Display (`44_display.md`). -/

namespace Sys2Proof.Machine

open Sys2Proof

/-- What the loops of `DRW` carry: the framebuffer and whether a pixel has collided. -/
abbrev Drawing := Framebuffer × Bool

/-- One sprite pixel at row `r`, column `c` (R131): an on pixel inside the display toggles and collides with an on pixel; a
pixel outside is dropped (`CLIP_POLICY`, D7). -/
def drawPixel (r c : Nat) (on : Bool) (d : Drawing) : Drawing :=
  if r < Config.displayH ∧ c < Config.displayW ∧ on = true then
    (d.1.setPixel r c (d.1.pixel r c ^^ true), d.2 || d.1.pixel r c)
  else d

/-- One sprite row, leftmost pixel first, bit 7 leftmost (R131, D6). -/
def drawRow (r c : Nat) (b : Byte) (d : Drawing) : Drawing :=
  (List.range 8).foldl (fun d col => drawPixel r (c + col) (b.getLsbD (7 - col)) d) d

/-- The sprite rows from row `r` down (R131). -/
def drawRows (r c : Nat) (sprite : List Byte) (d : Drawing) : Drawing :=
  match sprite with
  | [] => d
  | b :: rest => drawRows (r + 1) c rest (drawRow r c b d)

/-- The column of the sprite's left edge, `V[x] mod DISPLAY_W` (R131). -/
def State.spriteColumn (s : State) (x : Reg) : Nat := (s.readV x).toNat % Config.displayW

/-- The row of the sprite's top edge, `V[y] mod DISPLAY_H` (R131). -/
def State.spriteRow (s : State) (y : Reg) : Nat := (s.readV y).toNat % Config.displayH

/-- `CLS` (R130). -/
def execCls (s : State) : Host.Outcome State Fault Refusal := .next (s.writeFb blankFramebuffer)

/-- `DRW Vx, Vy, n` (R131): the coordinates are those of the state before VF is written (D8), and all `n` bytes are
range-checked first (R49). -/
def execDrw (x y : Reg) (n : Nat) (s : State) : Host.Outcome State Fault Refusal :=
  match readBlock s.mem s.base n with
  | none => .next (s.raise .addressOutOfRange)
  | some sprite =>
    .next ((s.writeFb (drawRows (s.spriteRow y) (s.spriteColumn x) sprite (s.fb, false)).1).writeFlag
      (drawRows (s.spriteRow y) (s.spriteColumn x) sprite (s.fb, false)).2)

end Sys2Proof.Machine
end

