-- ==== Sys2Proof/Machine/IndexMemory.lean ====
section
/-! DEFINITION. Index register and memory (`43_index_memory.md`). A failed range check raises before anything is written
(R49), and `I` is never changed by an access (R126). -/

namespace Sys2Proof.Machine

open Sys2Proof

/-- `LD I, nnn` (R120). -/
def execLdI (nnn : Addr) (s : State) : Host.Outcome State Fault Refusal := .next (s.writeI (addrTarget nnn))

/-- `ADD I, Vx` (R121): modulo 65536, no flag. -/
def execAddI (x : Reg) (s : State) : Host.Outcome State Fault Refusal :=
  .next (s.writeI (s.i + zextByte (s.readV x)))

/-- `LD F, Vx` (R122). -/
def execLdF (x : Reg) (s : State) : Host.Outcome State Fault Refusal := .next (s.writeI (fontAddress (s.readV x)))

/-- `LD B, Vx` (R123). -/
def execLdB (x : Reg) (s : State) : Host.Outcome State Fault Refusal :=
  match writeBlock s.mem s.base (bcdDigits (s.readV x)) with
  | none => .next (s.raise .addressOutOfRange)
  | some m => .next (s.writeMem m)

/-- `LD [I], Vx` (R124). -/
def execDump (x : Reg) (s : State) : Host.Outcome State Fault Refusal :=
  match writeBlock s.mem s.base (s.regsUpTo x) with
  | none => .next (s.raise .addressOutOfRange)
  | some m => .next (s.writeMem m)

/-- `LD Vx, [I]` (R125). -/
def execLoad (x : Reg) (s : State) : Host.Outcome State Fault Refusal :=
  match readBlock s.mem s.base (x.val + 1) with
  | none => .next (s.raise .addressOutOfRange)
  | some bytes => .next (s.writeRegs bytes)

end Sys2Proof.Machine
end

