-- ==== Sys2Proof/Machine/KeypadTimers.lean ====
section
/-! DEFINITION. Keypad and timers (`45_keypad_timers.md`). -/

namespace Sys2Proof.Machine

open Sys2Proof

/-- `SKP Vx` (R140). -/
def execSkp (x : Reg) (s : State) : Host.Outcome State Fault Refusal :=
  .next (s.skipIf (s.readKey (keySelect (s.readV x))))

/-- `SKNP Vx` (R141). -/
def execSknp (x : Reg) (s : State) : Host.Outcome State Fault Refusal :=
  .next (s.skipIf (!s.readKey (keySelect (s.readV x))))

/-- `LD Vx, K` (R142): with no key pressed `pc` goes back to this instruction. -/
def execLdVxK (x : Reg) (s : State) : Host.Outcome State Fault Refusal :=
  match s.lowestKey with
  | some k => .next (s.writeV x (BitVec.ofNat 8 k.val))
  | none => .next (s.writePc (s.pc - 2))

/-- `LD Vx, DT` (R143). -/
def execLdVxDt (x : Reg) (s : State) : Host.Outcome State Fault Refusal := .next (s.writeV x s.dt)

/-- `LD DT, Vx` (R144); the tick's own timer step then counts it down. -/
def execLdDtVx (x : Reg) (s : State) : Host.Outcome State Fault Refusal := .next (s.writeDt (s.readV x))

/-- `LD ST, Vx` (R145); the tick's own timer step then counts it down. -/
def execLdStVx (x : Reg) (s : State) : Host.Outcome State Fault Refusal := .next (s.writeSt (s.readV x))

end Sys2Proof.Machine
end

