-- ==== Sys2Proof/Machine/LoadAlu.lean ====
section
/-! DEFINITION. Load, arithmetic, logic, shift and random (`42_load_alu.md`). Operands are read from the state before any
write, and VF is written last (R11, R113). -/

namespace Sys2Proof.Machine

open Sys2Proof

/-- `LD Vx, kk` (R100). -/
def execLdImm (x : Reg) (kk : Byte) (s : State) : Host.Outcome State Fault Refusal := .next (s.writeV x kk)

/-- `ADD Vx, kk` (R101): wraps modulo 256, no flag. -/
def execAddImm (x : Reg) (kk : Byte) (s : State) : Host.Outcome State Fault Refusal :=
  .next (s.writeV x (s.readV x + kk))

/-- `LD Vx, Vy` (R102). -/
def execLdReg (x y : Reg) (s : State) : Host.Outcome State Fault Refusal := .next (s.writeV x (s.readV y))

/-- `OR Vx, Vy` (R103). -/
def execOrReg (x y : Reg) (s : State) : Host.Outcome State Fault Refusal :=
  .next (s.writeV x (s.readV x ||| s.readV y))

/-- `AND Vx, Vy` (R104). -/
def execAndReg (x y : Reg) (s : State) : Host.Outcome State Fault Refusal :=
  .next (s.writeV x (s.readV x &&& s.readV y))

/-- `XOR Vx, Vy` (R105). -/
def execXorReg (x y : Reg) (s : State) : Host.Outcome State Fault Refusal :=
  .next (s.writeV x (s.readV x ^^^ s.readV y))

/-- `ADD Vx, Vy` (R106). -/
def execAddReg (x y : Reg) (s : State) : Host.Outcome State Fault Refusal :=
  .next (s.writeResultFlag x (s.readV x + s.readV y) (carryOut (s.readV x) (s.readV y)))

/-- `SUB Vx, Vy` (R107). -/
def execSub (x y : Reg) (s : State) : Host.Outcome State Fault Refusal :=
  .next (s.writeResultFlag x (s.readV x - s.readV y) (noBorrow (s.readV x) (s.readV y)))

/-- `SHR Vx` (R108). -/
def execShr (x y : Reg) (s : State) : Host.Outcome State Fault Refusal :=
  .next (s.writeResultFlag x (s.readV (shiftOperand x y) >>> 1) (shiftedOutRight (s.readV (shiftOperand x y))))

/-- `SUBN Vx, Vy` (R109). -/
def execSubn (x y : Reg) (s : State) : Host.Outcome State Fault Refusal :=
  .next (s.writeResultFlag x (s.readV y - s.readV x) (noBorrow (s.readV y) (s.readV x)))

/-- `SHL Vx` (R110). -/
def execShl (x y : Reg) (s : State) : Host.Outcome State Fault Refusal :=
  .next (s.writeResultFlag x (s.readV (shiftOperand x y) <<< 1) (shiftedOutLeft (s.readV (shiftOperand x y))))

/-- `RND Vx, kk` (R111): the drawn byte is a free value, and it is consumed whatever `kk` is. -/
def execRnd (x : Reg) (kk : Byte) (s : State) : Host.Outcome State Fault Refusal :=
  .next (s.consumeRnd.writeV x (s.rndByte &&& kk))

end Sys2Proof.Machine
end

