-- ==== Sys2Proof/Syntax.lean ====
section
/-! DEFINITION. The 34 instructions of `30_encoding.md` R66, one constructor per row of spec/opcode_table.json, in the
table's order. A word that matches no row is no instruction: it takes the no-op handler of R68 (Decode.lean and
`execNoop`). -/

namespace Sys2Proof

/-- The instructions. `x` and `y` are register indices, `kk` an 8-bit immediate, `nnn` a 12-bit address, `n` a row count
(R62). -/
inductive Instr where
  /-- `CLS` (R130) -/
  | cls
  /-- `RET` (R90) -/
  | ret
  /-- `JP nnn` (R91) -/
  | jp (nnn : Addr)
  /-- `CALL nnn` (R92) -/
  | call (nnn : Addr)
  /-- `SE Vx, kk` (R94) -/
  | seImm (x : Reg) (kk : Byte)
  /-- `SNE Vx, kk` (R95) -/
  | sneImm (x : Reg) (kk : Byte)
  /-- `SE Vx, Vy` (R96); the low nibble of the word is not decoded (R64) -/
  | seReg (x y : Reg)
  /-- `LD Vx, kk` (R100) -/
  | ldImm (x : Reg) (kk : Byte)
  /-- `ADD Vx, kk` (R101) -/
  | addImm (x : Reg) (kk : Byte)
  /-- `LD Vx, Vy` (R102) -/
  | ldReg (x y : Reg)
  /-- `OR Vx, Vy` (R103) -/
  | orReg (x y : Reg)
  /-- `AND Vx, Vy` (R104) -/
  | andReg (x y : Reg)
  /-- `XOR Vx, Vy` (R105) -/
  | xorReg (x y : Reg)
  /-- `ADD Vx, Vy` (R106) -/
  | addReg (x y : Reg)
  /-- `SUB Vx, Vy` (R107) -/
  | sub (x y : Reg)
  /-- `SHR Vx` (R108); the word carries a `y` field (R66) -/
  | shr (x y : Reg)
  /-- `SUBN Vx, Vy` (R109) -/
  | subn (x y : Reg)
  /-- `SHL Vx` (R110); the word carries a `y` field (R66) -/
  | shl (x y : Reg)
  /-- `SNE Vx, Vy` (R97); the low nibble of the word is not decoded (R64) -/
  | sneReg (x y : Reg)
  /-- `LD I, nnn` (R120) -/
  | ldI (nnn : Addr)
  /-- `JP V0, nnn` (R93) -/
  | jpV0 (nnn : Addr)
  /-- `RND Vx, kk` (R111) -/
  | rnd (x : Reg) (kk : Byte)
  /-- `DRW Vx, Vy, n` (R131); `n` is "an unsigned count" (R63) of 0 to 15 rows, which `Instr.wellFormed` checks -/
  | drw (x y : Reg) (n : Nat)
  /-- `SKP Vx` (R140) -/
  | skp (x : Reg)
  /-- `SKNP Vx` (R141) -/
  | sknp (x : Reg)
  /-- `LD Vx, DT` (R143) -/
  | ldVxDt (x : Reg)
  /-- `LD Vx, K` (R142) -/
  | ldVxK (x : Reg)
  /-- `LD DT, Vx` (R144) -/
  | ldDtVx (x : Reg)
  /-- `LD ST, Vx` (R145) -/
  | ldStVx (x : Reg)
  /-- `ADD I, Vx` (R121) -/
  | addI (x : Reg)
  /-- `LD F, Vx` (R122) -/
  | ldF (x : Reg)
  /-- `LD B, Vx` (R123) -/
  | ldB (x : Reg)
  /-- `LD [I], Vx` (R124) -/
  | dump (x : Reg)
  /-- `LD Vx, [I]` (R125) -/
  | load (x : Reg)
  deriving DecidableEq, Repr

end Sys2Proof
end

