-- ==== Sys2Proof/WellFormed.lean ====
section
/-! DEFINITION. Which terms of `Instr` are instructions. Register indices, immediates and addresses are bounded by their
types; the one operand kept as a count is the row count of `DRW`. -/

namespace Sys2Proof

/-- The row count of `DRW` fits its 4-bit field: "the row count 0 to 15" (`30_encoding.md` R62). -/
def Instr.wellFormed (i : Instr) : Bool :=
  match i with
  | .drw _ _ n => decide (n < 16)
  | .cls | .ret | .jp _ | .call _ | .seImm _ _ | .sneImm _ _ | .seReg _ _ | .ldImm _ _ | .addImm _ _ | .ldReg _ _ => true
  | .orReg _ _ | .andReg _ _ | .xorReg _ _ | .addReg _ _ | .sub _ _ | .shr _ _ | .subn _ _ | .shl _ _ | .sneReg _ _ => true
  | .ldI _ | .jpV0 _ | .rnd _ _ | .skp _ | .sknp _ | .ldVxDt _ | .ldVxK _ | .ldDtVx _ | .ldStVx _ => true
  | .addI _ | .ldF _ | .ldB _ | .dump _ | .load _ => true

end Sys2Proof
end

