-- ==== Sys2Proof/Decode.lean ====
section
/-! DEFINITION. Fields, decoder, opcode map and encoder (`30_encoding.md`). The decoder is "a pure function from
instruction word to handler identity" (R60, R70): every word gives an instruction or is named undefined, and an undefined
word takes the no-op handler (R68). -/

namespace Sys2Proof

/-! ## Fields (R62) -/

/-- The primary decode key, `IR[15:12]`. -/
def familyField (w : Word) : BitVec 4 := w.extractLsb' 12 4

/-- The first register operand, `IR[11:8]`. -/
def xField (w : Word) : Reg := (w.extractLsb' 8 4).toFin

/-- The second register operand, `IR[7:4]`. -/
def yField (w : Word) : Reg := (w.extractLsb' 4 4).toFin

/-- The secondary nibble, `IR[3:0]`. -/
def nField (w : Word) : BitVec 4 := w.extractLsb' 0 4

/-- The 8-bit immediate, in families E and F the secondary byte, `IR[7:0]`. -/
def kkField (w : Word) : Byte := w.extractLsb' 0 8

/-- The 12-bit address, `IR[11:0]`. -/
def nnnField (w : Word) : Addr := w.extractLsb' 0 12

/-! ## Secondary decode (R65) -/

/-- `SECONDARY_KEY` (D2): full match. Log entry 4. -/
def secondaryKey : Config.SecondaryKey := .fullMatch

/-- Family 0: the whole low 12 bits are the key (R65); under the other reading of R69 the low nibble alone. -/
def decodeFamily0 (w : Word) : Option Instr :=
  match secondaryKey with
  | .fullMatch =>
    match (nnnField w).toNat with
    | 0x0E0 => some .cls
    | 0x0EE => some .ret
    | _ => none
  | .nibble =>
    match (nField w).toNat with
    | 0x0 => some .cls
    | 0xE => some .ret
    | _ => none

/-- Family 8: the low nibble is the key (R65). -/
def decodeFamily8 (w : Word) : Option Instr :=
  match (nField w).toNat with
  | 0x0 => some (.ldReg (xField w) (yField w))
  | 0x1 => some (.orReg (xField w) (yField w))
  | 0x2 => some (.andReg (xField w) (yField w))
  | 0x3 => some (.xorReg (xField w) (yField w))
  | 0x4 => some (.addReg (xField w) (yField w))
  | 0x5 => some (.sub (xField w) (yField w))
  | 0x6 => some (.shr (xField w) (yField w))
  | 0x7 => some (.subn (xField w) (yField w))
  | 0xE => some (.shl (xField w) (yField w))
  | _ => none

/-- Family E: the low byte is the key (R65); under the other reading of R69 the low nibble alone. -/
def decodeFamilyE (w : Word) : Option Instr :=
  match secondaryKey with
  | .fullMatch =>
    match (kkField w).toNat with
    | 0x9E => some (.skp (xField w))
    | 0xA1 => some (.sknp (xField w))
    | _ => none
  | .nibble =>
    match (nField w).toNat with
    | 0xE => some (.skp (xField w))
    | 0x1 => some (.sknp (xField w))
    | _ => none

/-- Family F: the low byte is the key (R65). -/
def decodeFamilyF (w : Word) : Option Instr :=
  match (kkField w).toNat with
  | 0x07 => some (.ldVxDt (xField w))
  | 0x0A => some (.ldVxK (xField w))
  | 0x15 => some (.ldDtVx (xField w))
  | 0x18 => some (.ldStVx (xField w))
  | 0x1E => some (.addI (xField w))
  | 0x29 => some (.ldF (xField w))
  | 0x33 => some (.ldB (xField w))
  | 0x55 => some (.dump (xField w))
  | 0x65 => some (.load (xField w))
  | _ => none

/-! ## Primary decode (R64) -/

/-- The instruction a word selects, `none` for an undefined word (R68). In families 5 and 9 the low nibble is not decoded
(R64). -/
def decodeWord (w : Word) : Option Instr :=
  match (familyField w).toNat with
  | 0x0 => decodeFamily0 w
  | 0x1 => some (.jp (nnnField w))
  | 0x2 => some (.call (nnnField w))
  | 0x3 => some (.seImm (xField w) (kkField w))
  | 0x4 => some (.sneImm (xField w) (kkField w))
  | 0x5 => some (.seReg (xField w) (yField w))
  | 0x6 => some (.ldImm (xField w) (kkField w))
  | 0x7 => some (.addImm (xField w) (kkField w))
  | 0x8 => decodeFamily8 w
  | 0x9 => some (.sneReg (xField w) (yField w))
  | 0xA => some (.ldI (nnnField w))
  | 0xB => some (.jpV0 (nnnField w))
  | 0xC => some (.rnd (xField w) (kkField w))
  | 0xD => some (.drw (xField w) (yField w) (nField w).toNat)
  | 0xE => decodeFamilyE w
  | 0xF => decodeFamilyF w
  | _ => none

/-- The two bytes of an instruction as its word, the byte at the lower address in bits 15 to 8 (R40). -/
def wordOfBytes (hi lo : Byte) : Word := hi ++ lo

/-- What decoding a byte sequence gives. -/
inductive Decoded where
  /-- an instruction and the bytes after it -/
  | instr (i : Instr) (rest : List Byte)
  /-- an undefined word, which takes the no-op handler (R68), and the bytes after it -/
  | undefinedWord (w : Word) (rest : List Byte)
  /-- fewer than the two bytes every instruction occupies (R60) -/
  | truncated
  deriving DecidableEq, Repr

/-- Decode the first instruction of a byte sequence, total on any bytes. -/
def decode (bytes : List Byte) : Decoded :=
  match bytes with
  | hi :: lo :: rest =>
    match decodeWord (wordOfBytes hi lo) with
    | some i => .instr i rest
    | none => .undefinedWord (wordOfBytes hi lo) rest
  | [_] => .truncated
  | [] => .truncated

/-- The instruction the decoder reads from the `nbits` bits `w` of a row of spec/opcode_table.json, stored high byte first
(R40). -/
def decodeTableWord (nbits w : Nat) : Option Instr :=
  let bits := w % 2 ^ nbits
  match decode [BitVec.ofNat 8 (bits / 256), BitVec.ofNat 8 bits] with
  | .instr i _ => some i
  | .undefinedWord _ _ => none
  | .truncated => none

/-! ## The opcode map (R66) -/

/-- A row of R66: a word `w` selects it when `w and mask = pattern` (the spec's column `match`). -/
structure OpcodeRow where
  mask : Word
  pattern : Word
  deriving DecidableEq, Repr

/-- Whether a word selects a row (R66). -/
def OpcodeRow.selects (r : OpcodeRow) (w : Word) : Bool := w &&& r.mask == r.pattern

/-- The row of R66 an instruction belongs to. -/
def Instr.row (i : Instr) : OpcodeRow :=
  match i with
  | .cls => ⟨0xFFFF, 0x00E0⟩
  | .ret => ⟨0xFFFF, 0x00EE⟩
  | .jp _ => ⟨0xF000, 0x1000⟩
  | .call _ => ⟨0xF000, 0x2000⟩
  | .seImm _ _ => ⟨0xF000, 0x3000⟩
  | .sneImm _ _ => ⟨0xF000, 0x4000⟩
  | .seReg _ _ => ⟨0xF000, 0x5000⟩
  | .ldImm _ _ => ⟨0xF000, 0x6000⟩
  | .addImm _ _ => ⟨0xF000, 0x7000⟩
  | .ldReg _ _ => ⟨0xF00F, 0x8000⟩
  | .orReg _ _ => ⟨0xF00F, 0x8001⟩
  | .andReg _ _ => ⟨0xF00F, 0x8002⟩
  | .xorReg _ _ => ⟨0xF00F, 0x8003⟩
  | .addReg _ _ => ⟨0xF00F, 0x8004⟩
  | .sub _ _ => ⟨0xF00F, 0x8005⟩
  | .shr _ _ => ⟨0xF00F, 0x8006⟩
  | .subn _ _ => ⟨0xF00F, 0x8007⟩
  | .shl _ _ => ⟨0xF00F, 0x800E⟩
  | .sneReg _ _ => ⟨0xF000, 0x9000⟩
  | .ldI _ => ⟨0xF000, 0xA000⟩
  | .jpV0 _ => ⟨0xF000, 0xB000⟩
  | .rnd _ _ => ⟨0xF000, 0xC000⟩
  | .drw _ _ _ => ⟨0xF000, 0xD000⟩
  | .skp _ => ⟨0xF0FF, 0xE09E⟩
  | .sknp _ => ⟨0xF0FF, 0xE0A1⟩
  | .ldVxDt _ => ⟨0xF0FF, 0xF007⟩
  | .ldVxK _ => ⟨0xF0FF, 0xF00A⟩
  | .ldDtVx _ => ⟨0xF0FF, 0xF015⟩
  | .ldStVx _ => ⟨0xF0FF, 0xF018⟩
  | .addI _ => ⟨0xF0FF, 0xF01E⟩
  | .ldF _ => ⟨0xF0FF, 0xF029⟩
  | .ldB _ => ⟨0xF0FF, 0xF033⟩
  | .dump _ => ⟨0xF0FF, 0xF055⟩
  | .load _ => ⟨0xF0FF, 0xF065⟩

/-- The 34 rows of R66, in its order. -/
def opcodeMap : List OpcodeRow :=
  ([.cls, .ret, .jp 0, .call 0, .seImm 0 0, .sneImm 0 0, .seReg 0 0, .ldImm 0 0, .addImm 0 0, .ldReg 0 0, .orReg 0 0,
      .andReg 0 0, .xorReg 0 0, .addReg 0 0, .sub 0 0, .shr 0 0, .subn 0 0] ++
    [.shl 0 0, .sneReg 0 0, .ldI 0, .jpV0 0, .rnd 0 0, .drw 0 0 0, .skp 0, .sknp 0, .ldVxDt 0, .ldVxK 0, .ldDtVx 0,
      .ldStVx 0, .addI 0, .ldF 0, .ldB 0, .dump 0, .load 0] : List Instr).map Instr.row

/-! ## The encoder: the five formats of R61 -/

/-- A register index as its 4-bit field. -/
def regBits (r : Reg) : BitVec 4 := BitVec.ofFin r

/-- Format NNN: family, 12-bit address. -/
def encodeNnn (family : BitVec 4) (nnn : Addr) : Word := family ++ nnn

/-- Format XKK: family, `x`, `kk`. -/
def encodeXkk (family : BitVec 4) (x : Reg) (kk : Byte) : Word := (family ++ regBits x) ++ kk

/-- Format XYN: family, `x`, `y`, low nibble. -/
def encodeXyn (family : BitVec 4) (x y : Reg) (n : BitVec 4) : Word := (family ++ regBits x) ++ (regBits y ++ n)

/-- The word of an instruction: the encoding its row of R66 gives, with low nibble 0 in families 5 and 9, "the canonical
spelling" (R64). Formats FIXED and XSS are NNN and XKK with constant operands (R61). -/
def encode (i : Instr) : Word :=
  match i with
  | .cls => encodeNnn 0x0 0x0E0
  | .ret => encodeNnn 0x0 0x0EE
  | .jp nnn => encodeNnn 0x1 nnn
  | .call nnn => encodeNnn 0x2 nnn
  | .seImm x kk => encodeXkk 0x3 x kk
  | .sneImm x kk => encodeXkk 0x4 x kk
  | .seReg x y => encodeXyn 0x5 x y 0x0
  | .ldImm x kk => encodeXkk 0x6 x kk
  | .addImm x kk => encodeXkk 0x7 x kk
  | .ldReg x y => encodeXyn 0x8 x y 0x0
  | .orReg x y => encodeXyn 0x8 x y 0x1
  | .andReg x y => encodeXyn 0x8 x y 0x2
  | .xorReg x y => encodeXyn 0x8 x y 0x3
  | .addReg x y => encodeXyn 0x8 x y 0x4
  | .sub x y => encodeXyn 0x8 x y 0x5
  | .shr x y => encodeXyn 0x8 x y 0x6
  | .subn x y => encodeXyn 0x8 x y 0x7
  | .shl x y => encodeXyn 0x8 x y 0xE
  | .sneReg x y => encodeXyn 0x9 x y 0x0
  | .ldI nnn => encodeNnn 0xA nnn
  | .jpV0 nnn => encodeNnn 0xB nnn
  | .rnd x kk => encodeXkk 0xC x kk
  | .drw x y n => encodeXyn 0xD x y (BitVec.ofNat 4 n)
  | .skp x => encodeXkk 0xE x 0x9E
  | .sknp x => encodeXkk 0xE x 0xA1
  | .ldVxDt x => encodeXkk 0xF x 0x07
  | .ldVxK x => encodeXkk 0xF x 0x0A
  | .ldDtVx x => encodeXkk 0xF x 0x15
  | .ldStVx x => encodeXkk 0xF x 0x18
  | .addI x => encodeXkk 0xF x 0x1E
  | .ldF x => encodeXkk 0xF x 0x29
  | .ldB x => encodeXkk 0xF x 0x33
  | .dump x => encodeXkk 0xF x 0x55
  | .load x => encodeXkk 0xF x 0x65

end Sys2Proof
end

