-- ==== Sys2Proof/Machine/Fetch.lean ====
section
/-! DEFINITION. Fetching an instruction word, and the advance (`40_tick_cycle.md` R81, R82). -/

namespace Sys2Proof.Machine

open Sys2Proof

/-- Step 1 of the tick: `IR <- MemRead(pc, 2)` (R40, R46, R81); `none` is `AddressOutOfRange`. -/
def State.fetch (s : State) : Option Word := memRead2 s.mem s.pc.toNat

/-- Steps 1 and 2 of the tick on a fetched word: latch `IR`, then `pc <- pc + 2` (R81, R82). -/
def State.advance (s : State) (w : Word) : State := (s.writeIr w).writePc (s.pc + 2)

/-- The end of a tick: a fault has ended it at once (R156), otherwise the timers count (R84). -/
def State.finishTick (s : State) : State := if s.halted then s else s.timerTick

/-- The end of the tick after what the execute step answered. -/
def endTick (o : Host.Outcome State Fault Refusal) : Host.Outcome State Fault Refusal :=
  match o with
  | .next t => .next t.finishTick
  | .fault r => .fault r
  | .refused r => .refused r

/-- Whether the fetch succeeds at `pc` (R46: it faults "when `pc > 0xFFE`"). -/
def State.canFetch (s : State) : Bool := rangeOk s.pc.toNat 2

/-- An instruction of `nbits` bits `w` (numbered as spec/opcode_table.json numbers them) laid out in memory at `pc`, high byte
first (R40). -/
def State.placeWord (s : State) (nbits w : Nat) : State :=
  s.writeMem (s.mem.setBlock s.pc.toNat [BitVec.ofNat 8 (w % 2 ^ nbits / 256), BitVec.ofNat 8 (w % 2 ^ nbits)])

/-- What a fetch needs: the core not halted (R80) and `pc` inside memory (R46). -/
def State.readyToFetch (s : State) : State :=
  { s with fault := .none, pc := if s.canFetch then s.pc else BitVec.ofNat 16 Config.progBase }

end Sys2Proof.Machine
end

