-- ==== Sys2Proof/Machine/Step.lean ====
section
/-! DEFINITION. The tick (`40_tick_cycle.md` R80), the core's only step. -/

namespace Sys2Proof.Machine

open Sys2Proof

/-- Step 3 of the tick on the word in `IR` (R83): the instruction it selects, or the no-op handler (R68). -/
def executeIr (s : State) : Host.Outcome State Fault Refusal :=
  match decodeWord s.ir with
  | some i => exec i s
  | none => execNoop s

/-- One tick (R80): a halted core does nothing; fetch, advance, execute, timers; a fault is latched and ends the tick (R156). -/
def step (s : State) : Host.Outcome State Fault Refusal :=
  if s.halted then .next s
  else
    match s.fetch with
    | none => .next (s.raise .addressOutOfRange)
    | some w => endTick (executeIr (s.advance w))

/-- `s` with one instruction word where the next step fetches. On a halted core or with `pc` outside memory no step fetches, so
the latch is cleared and `pc` set to `PROG_BASE`. Log entry 8. -/
def State.withFetchWord (s : State) (nbits w : Nat) : State := s.readyToFetch.placeWord nbits w

end Sys2Proof.Machine
end

