-- ==== Sys2Proof/Machine/HostInterface.lean ====
section
/-! DEFINITION. The host interface (`60_exceptions.md` R170 to R176, `70_reset_and_hazards.md` R180 to R182): what everything
outside the core may do between ticks. The `RND` byte (R28) is the free value `Config.rndByte`. -/

namespace Sys2Proof.Machine

open Sys2Proof

/-- The program image in memory: every other cell at its reset contents (R180). -/
def loadImage (image : List Byte) : Memory := Memory.setBlock [] Config.progBase image

/-- Reset with a program image (R180), from no state ("construct"); an image of more than 3584 bytes gives an error and no
state (R181). -/
def construct (image : List Byte) : Host.Outcome State Fault Refusal :=
  if image.length ≤ Config.maxProgLen then .next (State.reset.writeMem (loadImage image))
  else .fault .invalidProgramSize

/-- Reset of a machine that has run (R182), the only way out of a fault (R159). The position in the `RND` input is not the
core's and goes on. Log entry 2. -/
def hostReset (image : List Byte) (s : State) : Host.Outcome State Fault Refusal :=
  match construct image with
  | .next t => .next { t with rndCount := s.rndCount }
  | .fault r => .fault r
  | .refused r => .refused r

/-- The interactions of R170 that write the core. -/
inductive HostEvent where
  /-- start one tick (R172) -/
  | tick
  /-- set or clear one key (R172) -/
  | keyWrite (k : Reg) (pressed : Bool)
  /-- reset with a program image (R171, R180) -/
  | reset (image : List Byte)
  deriving DecidableEq, Repr

/-- One interaction, between ticks (R170). -/
def hostEvent (e : HostEvent) (s : State) : Host.Outcome State Fault Refusal :=
  match e with
  | .tick => step s
  | .keyWrite k pressed => .next (s.writeKey k pressed)
  | .reset image => hostReset image s

/-- A sequence of interactions, up to the first that gives no state. -/
def hostRun (es : List HostEvent) (s : State) : Host.Outcome State Fault Refusal :=
  match es with
  | [] => .next s
  | e :: rest =>
    match hostEvent e s with
    | .next t => hostRun rest t
    | .fault r => .fault r
    | .refused r => .refused r

/-- The host's read of the framebuffer (R173): the flat array, `FB[r][c]` at `r * DISPLAY_W + c` (R19). -/
def State.framebufferRead (s : State) : List Bool := s.fb.toList.flatMap fun row => row.toList

/-- The host's read of `DT` and `ST` (R174). -/
def State.timerRead (s : State) : Byte × Byte := (s.dt, s.st)

/-- The host's read of `FAULT.cause` (R175). -/
def State.faultRead (s : State) : BitVec 3 := s.fault.code

end Sys2Proof.Machine
end

