-- ==== Sys2Proof/Safety.lean ====
section
/-! DEFINITION. The terms claims use: the parts of a state and frames over them, the machine's invariant, and the agreement of
two states on what a program can observe. -/

namespace Sys2Proof.Machine

open Sys2Proof

/-- One part of the state (R29), down to one register, one stack entry, one byte of memory, one pixel, one key. -/
inductive Part where
  | v (x : Reg)
  | i
  | pc
  | sp
  | stack (k : Fin 16)
  | dt
  | st
  | mem (a : Nat)
  | pixel (r c : Nat)
  | key (k : Reg)
  | fault
  | ir
  | rnd
  deriving DecidableEq, Repr

/-- The part reads the same in both states; a byte of memory through the model's read of one byte. -/
def Part.Same (p : Part) (s t : State) : Prop :=
  match p with
  | .v x => t.readV x = s.readV x
  | .i => t.i = s.i
  | .pc => t.pc = s.pc
  | .sp => t.sp = s.sp
  | .stack k => t.stack[k] = s.stack[k]
  | .dt => t.dt = s.dt
  | .st => t.st = s.st
  | .mem a => t.readByte a = s.readByte a
  | .pixel r c => t.fb.pixel r c = s.fb.pixel r c
  | .key k => t.readKey k = s.readKey k
  | .fault => t.fault = s.fault
  | .ir => t.ir = s.ir
  | .rnd => t.rndCount = s.rndCount

/-- The frame: every part outside `changed` reads the same after as before. -/
def FrameExcept (s t : State) (changed : Set Part) : Prop := ∀ p, p ∉ changed → p.Same s t

/-- The invariant of the machine: memory keeps its canonical form; `pc` never exceeds `0x10FE`, the "largest value any rule can
store" (R14); every stack entry is a return address, at most the advanced `pc` of the last fetchable word, `0x1000` (R82, R92).
That `sp` is 0 to 16 (R16) holds by the type of `State.sp`. -/
structure State.Inv (s : State) : Prop where
  /-- memory is canonical -/
  mem : s.mem.wf = true
  /-- the bound of R14 -/
  pc : s.pc.toNat ≤ 0x10FE
  /-- the bound R82 and R92 give -/
  stack : ∀ k : Fin 16, s.stack[k].toNat ≤ 0x1000

/-- The two states agree on everything but the stack entries that are not in use (R15: "its old content stays and is
unobservable until overwritten by a later `CALL`"). -/
def AgreeOnLiveStack (s t : State) : Prop :=
  { t with stack := s.stack } = s ∧ ∀ k : Fin 16, k.val < s.sp.val → t.stack[k] = s.stack[k]

/-- The instruction a tick on `s` runs: not halted, the fetch succeeds, and the word selects it. -/
def State.runs (s : State) (i : Instr) : Prop :=
  s.halted = false ∧ ∃ w, s.fetch = some w ∧ decodeWord w = some i

/-- Whether `DRW Vx, Vy, n` has an on sprite pixel at display row `r`, column `c` (R131): the origin is `V[x]` and `V[y]` reduced
modulo the display, byte `I + row` is row `row` from the top, and bit 7 is the leftmost pixel. -/
def spriteOn (s : State) (x y : Reg) (n r c : Nat) : Bool :=
  decide (s.spriteRow y ≤ r ∧ r < s.spriteRow y + n ∧ s.spriteColumn x ≤ c ∧ c < s.spriteColumn x + 8) &&
    ((s.readByte (s.i.toNat + (r - s.spriteRow y))).getD 0).getLsbD (7 - (c - s.spriteColumn x))

/-- The words R68 lists as undefined. -/
def UndefinedWord (w : Word) : Prop :=
  (w.toNat / 4096 = 0x0 ∧ w.toNat % 4096 ≠ 0x0E0 ∧ w.toNat % 4096 ≠ 0x0EE) ∨
  (w.toNat / 4096 = 0x8 ∧ w.toNat % 16 ∈ [0x8, 0x9, 0xA, 0xB, 0xC, 0xD, 0xF]) ∨
  (w.toNat / 4096 = 0xE ∧ w.toNat % 256 ∉ [0x9E, 0xA1]) ∨
  (w.toNat / 4096 = 0xF ∧ w.toNat % 256 ∉ [0x07, 0x0A, 0x15, 0x18, 0x1E, 0x29, 0x33, 0x55, 0x65])

end Sys2Proof.Machine
end

