-- ==== Sys2Proof/Certificates/Slice0/Obligations.lean ====
section
/-! DEFINITION. The statements for the provers. In an `exec` statement `s` is the state of the execute step: `s.pc` is the
address of the executing instruction plus 2 (R82). "Decision D<n>" is a choice the spec marks as its own in
`92_eei_decisions.md`; a docstring names each one its statement rests on. -/

open Sys2Proof Sys2Proof.Machine

/-! ## Encoding and decode -/

/-- A few words of the opcode map decode to the instructions they stand for (R66). All opcode numbers but `1nnn` rest on decision
D1, the key of families 0 and E on decision D2. -/
def Obligations.OpcodeWordsDecode : Prop :=
  decodeWord 0x00E0 = some .cls ∧ decodeWord 0x00EE = some .ret ∧ decodeWord 0x1234 = some (.jp 0x234) ∧
  decodeWord 0x220A = some (.call 0x20A) ∧ decodeWord 0x4310 = some (.sneImm 3 0x10) ∧
  decodeWord 0x8127 = some (.subn 1 2) ∧ decodeWord 0xC30F = some (.rnd 3 0x0F) ∧
  decodeWord 0xD012 = some (.drw 0 1 2) ∧ decodeWord 0xE2A1 = some (.sknp 2) ∧
  decodeWord 0xF20A = some (.ldVxK 2) ∧ decodeWord 0xF265 = some (.load 2) ∧ decodeWord 0x0000 = none

/-- Decoding the word of a well-formed instruction gives the instruction back, for all 34 instructions and every operand value
(R61, R62, R66). Rests on decisions D1 and D2. -/
def Obligations.DecodeEncodeRoundTrip : Prop :=
  ∀ i : Instr, i.wellFormed = true → decodeWord (encode i) = some i

/-- A decoded word is the encoding of its instruction: whole, or, in families 5 and 9, with the low nibble that R64 does not
decode cleared. Rests on decisions D1 and D2. -/
def Obligations.EncodeDecodeCanonical : Prop :=
  ∀ (w : Word) (i : Instr), decodeWord w = some i →
    encode i = if w.toNat / 4096 = 5 ∨ w.toNat / 4096 = 9 then w &&& 0xFFF0 else w

/-- The two-level decode (R64, R65) is the opcode map (R66): a word decodes to a well-formed instruction whose row it selects, it
selects no other row, and it is undefined exactly when it selects none. Rests on decisions D1 and D2. -/
def Obligations.DecodeFollowsOpcodeMap : Prop :=
  ∀ w : Word,
    (∀ i, decodeWord w = some i →
      i.wellFormed = true ∧ i.row ∈ opcodeMap ∧ ∀ r ∈ opcodeMap, (r.selects w = true ↔ r = i.row)) ∧
    (decodeWord w = none ↔ ∀ r ∈ opcodeMap, r.selects w = false)

/-- R68: a word that matches no row of R66 does not trap; it acts as a two-byte `NOP`: `pc` advances by 2, the timers count, and
nothing else but `IR` changes. The words that match no row are the ones R68 lists. -/
def Obligations.UndefinedWordTickIsNoop : Prop :=
  ∀ w : Word,
    ((∀ r ∈ opcodeMap, r.selects w = false) ↔ UndefinedWord w) ∧
    ∀ s : State, s.fault = .none → s.fetch = some w → (∀ r ∈ opcodeMap, r.selects w = false) →
      ∃ t, step s = .next t ∧ t.pc = s.pc + 2 ∧ t.dt.toNat = s.dt.toNat - 1 ∧ t.st.toNat = s.st.toNat - 1 ∧ t.ir = w ∧
        FrameExcept s t {.pc, .dt, .st, .ir}

/-! ## The tick -/

/-- One tick (R80 to R84), from the bytes at `pc`, at any parity of `pc` (R41): a halted core does nothing (decision D11); a `pc`
above `0xFFE` raises and changes nothing else (decision D10); otherwise the two bytes, the first high (R40), go to `IR`, `pc`
advances by 2, the decoded instruction executes, and the timers count unless it latched a fault. -/
def Obligations.TickFollowsItsFourSteps : Prop :=
  ∀ s : State,
    (s.fault ≠ .none → step s = .next s) ∧
    (s.fault = .none → 0xFFE < s.pc.toNat → step s = .next { s with fault := .addressOutOfRange }) ∧
    ∀ (hi lo : Byte) (i : Instr), s.fault = .none → s.readByte s.pc.toNat = some hi → s.readByte (s.pc.toNat + 1) = some lo →
      decode [hi, lo] = .instr i [] →
        (∀ t, exec i { s with ir := hi ++ lo, pc := s.pc + 2 } = .next t →
          step s = .next (if t.fault = .none then
            { t with dt := if t.dt = 0 then 0 else t.dt - 1, st := if t.st = 0 then 0 else t.st - 1 } else t)) ∧
        (∀ r, exec i { s with ir := hi ++ lo, pc := s.pc + 2 } = .fault r → step s = .fault r) ∧
        (∀ r, exec i { s with ir := hi ++ lo, pc := s.pc + 2 } = .refused r → step s = .refused r)

/-- A halted core stays as it is for any number of ticks (R80, R156; decision D11). -/
def Obligations.HaltedCoreNeverChanges : Prop :=
  ∀ (s : State) (k : Nat), s.fault ≠ .none → Sys2Proof.core.run k s = .next s

/-- No instruction and no tick stops the model: each answers a next state from every state. Every word has an instruction or the
no-op handler (R70: "The decoder is total"). That a fault of a tick is latched and halts the core (R156) is decision D11, and
that the model answers it as a next state and no stop is its own reading of that decision (log entry 3, DEDUCED). -/
def Obligations.EveryTickAnswersNext : Prop :=
  (∀ (i : Instr) (s : State), ∃ t, exec i s = .next t) ∧ ∀ s : State, ∃ t, step s = .next t

/-- R84: the timers count once in every tick that no fault ends, whichever instruction ran, saturating at zero; `LD DT` and `LD
ST` lose one count in their own tick; `LD Vx, DT` reads the value before the decrement. -/
def Obligations.TimersCountEveryTick : Prop :=
  ∀ s t : State, s.fault = .none → step s = .next t → t.fault = .none →
    (∀ x, s.runs (.ldDtVx x) → t.dt.toNat = (s.readV x).toNat - 1) ∧
    ((∀ x, ¬s.runs (.ldDtVx x)) → t.dt.toNat = s.dt.toNat - 1) ∧
    (∀ x, s.runs (.ldStVx x) → t.st.toNat = (s.readV x).toNat - 1) ∧
    ((∀ x, ¬s.runs (.ldStVx x)) → t.st.toNat = s.st.toNat - 1) ∧
    (∀ x, s.runs (.ldVxDt x) → t.readV x = s.dt)

/-- Every step keeps the invariant of the machine: canonical memory, `pc` at most `0x10FE` (R14), stack entries at most `0x1000`
(R82, R92). R14 marks the bound as derived. -/
def Obligations.StepKeepsMachineInvariant : Prop :=
  ∀ s t : State, s.Inv → step s = .next t → t.Inv

/-- The state after reset meets the invariant. -/
def Obligations.ResetMeetsMachineInvariant : Prop := State.reset.Inv

/-- Whatever the host does between and through ticks (R170), the invariant holds. -/
def Obligations.HostRunKeepsMachineInvariant : Prop :=
  ∀ (es : List HostEvent) (s t : State), s.Inv → hostRun es s = .next t → t.Inv

/-! ## Faults -/

/-- Faults are precise (R156, R157; decision D11): a fetch fault changes the latch alone, an execute fault the latch, `pc`
(advanced) and `IR`; the timers do not count. -/
def Obligations.FaultsArePrecise : Prop :=
  ∀ s t : State, s.fault = .none → step s = .next t → t.fault ≠ .none →
    (0xFFE < s.pc.toNat ∧ t = { s with fault := .addressOutOfRange }) ∨
    (∃ w, s.fetch = some w ∧ t = { s with ir := w, pc := s.pc + 2, fault := t.fault })

/-- Which tick latches which cause (R151 to R154, R158; decisions D9 and D10; the latch is decision D11). -/
def Obligations.FaultCausesHaveTheirOrigins : Prop :=
  ∀ s t : State, s.fault = .none → step s = .next t →
    t.fault ≠ .invalidProgramSize ∧
    (t.fault = .stackOverflow ↔ s.sp.val = 16 ∧ ∃ nnn, s.runs (.call nnn)) ∧
    (t.fault = .stackUnderflow ↔ s.sp.val = 0 ∧ s.runs .ret) ∧
    (t.fault = .addressOutOfRange ↔
      0xFFE < s.pc.toNat ∨ (∃ x, s.runs (.ldB x) ∧ 0xFFF < s.i.toNat + 2) ∨
      (∃ x, s.runs (.dump x) ∧ 0xFFF < s.i.toNat + x.val) ∨ (∃ x, s.runs (.load x) ∧ 0xFFF < s.i.toNat + x.val) ∨
      (∃ x y n, s.runs (.drw x y n) ∧ 0 < n ∧ 0xFFF < s.i.toNat + n - 1))

/-! ## Whole-machine rules -/

/-- Only the named instructions change each element: `CALL` and `RET` the stack (R15), `CLS` and `DRW` the framebuffer (R19),
`LD B` and `LD [I]` memory (R42), `LD I`, `ADD I` and `LD F` the index register (R13), `RND` the random input (R85), whose
position `rndCount` is the model's own field (log entry 2); no tick changes the keys (R20). That `LD [I], Vx` and `LD Vx, [I]`
leave `I` unchanged is decision D13 (log entry 13, DEDUCED). -/
def Obligations.OnlyNamedInstructionsWrite : Prop :=
  ∀ (s t : State) (i : Instr), s.runs i → step s = .next t →
    ((∀ nnn, i ≠ .call nnn) → i ≠ .ret → t.sp = s.sp ∧ t.stack = s.stack) ∧
    (i ≠ .cls → (∀ x y n, i ≠ .drw x y n) → t.fb = s.fb) ∧
    ((∀ x, i ≠ .ldB x) → (∀ x, i ≠ .dump x) → ∀ a, t.readByte a = s.readByte a) ∧
    ((∀ nnn, i ≠ .ldI nnn) → (∀ x, i ≠ .addI x) → (∀ x, i ≠ .ldF x) → t.i = s.i) ∧
    ((∀ x kk, i ≠ .rnd x kk) → t.rndCount = s.rndCount) ∧
    t.key = s.key

/-- R12: the six flag-writing instructions leave VF at `0x00` or `0x01` whatever their operands (`DRW` unless it faults, decisions D10 and D11), and any
other instruction leaves VF alone unless VF is its destination. -/
def Obligations.FlagRegisterWriters : Prop :=
  ∀ (s t : State) (i : Instr), exec i s = .next t →
    ((∃ x y, i = .addReg x y ∨ i = .sub x y ∨ i = .subn x y ∨ i = .shr x y ∨ i = .shl x y) →
      t.readV vf = 0 ∨ t.readV vf = 1) ∧
    (∀ x y n, i = .drw x y n → (t = { s with fault := .addressOutOfRange } ∨ t.readV vf = 0 ∨ t.readV vf = 1)) ∧
    ((∀ x y, i ≠ .addReg x y ∧ i ≠ .sub x y ∧ i ≠ .subn x y ∧ i ≠ .shr x y ∧ i ≠ .shl x y) → (∀ x y n, i ≠ .drw x y n) →
      t.readV vf ≠ s.readV vf →
        (∃ kk, i = .ldImm vf kk ∨ i = .addImm vf kk ∨ i = .rnd vf kk) ∨
        (∃ y, i = .ldReg vf y ∨ i = .orReg vf y ∨ i = .andReg vf y ∨ i = .xorReg vf y) ∨
        i = .ldVxDt vf ∨ i = .ldVxK vf ∨ i = .load vf)

/-- A popped stack entry "stays and is unobservable until overwritten by a later `CALL`" (R15): two states that agree on all but
the entries not in use step to two states that agree so. -/
def Obligations.StaleStackEntriesAreUnobservable : Prop :=
  ∀ s s' t : State, AgreeOnLiveStack s s' → step s = .next t → ∃ t', step s' = .next t' ∧ AgreeOnLiveStack t t'

/-- `IR` is "ephemeral, recomputed every tick, not persisted" (R25): what it holds before a tick that fetches makes no
difference. So the model's choice of its reset value (log entry 1) cannot show. -/
def Obligations.InstructionRegisterIsEphemeral : Prop :=
  ∀ (s : State) (w : Word), s.fault = .none → s.pc.toNat ≤ 0xFFE → step { s with ir := w } = step s

/-- "`ST` is written by `LD ST, Vx` and read by no instruction" (R17): its value makes no difference to anything but itself. -/
def Obligations.SoundTimerIsReadByNothing : Prop :=
  ∀ (s t : State) (b : Byte), step s = .next t → ∃ t', step { s with st := b } = .next t' ∧ { t' with st := t.st } = t

/-! ## Control flow -/

/-- R91, its encoding `0x1nnn` (the one the source prints a word of) and its effect. -/
def Obligations.JumpSetsProgramCounter : Prop :=
  (∀ nnn : Addr, decodeWord ((1 : BitVec 4) ++ nnn) = some (.jp nnn)) ∧
  ∀ (nnn : Addr) (s : State), ∃ t, exec (.jp nnn) s = .next t ∧ t.pc.toNat = nnn.toNat ∧ FrameExcept s t {.pc}

/-- R92. The strict fault at `sp = 16` is decision D9, its latch D11. -/
def Obligations.CallPushesAdvancedPc : Prop :=
  ∀ (nnn : Addr) (s : State),
    (∀ k : Fin 16, s.sp.val = k.val → ∃ t, exec (.call nnn) s = .next t ∧ t.stack[k] = s.pc ∧ t.sp.val = k.val + 1 ∧
      t.pc.toNat = nnn.toNat ∧ FrameExcept s t {.pc, .sp, .stack k}) ∧
    (s.sp.val = 16 → exec (.call nnn) s = .next { s with fault := .stackOverflow })

/-- R90. The strict fault at `sp = 0` is decision D9, its latch D11. -/
def Obligations.ReturnPopsPc : Prop :=
  ∀ s : State,
    (∀ k : Fin 16, s.sp.val = k.val + 1 → ∃ t, exec .ret s = .next t ∧ t.pc = s.stack[k] ∧ t.sp.val = k.val ∧
      FrameExcept s t {.pc, .sp}) ∧
    (s.sp.val = 0 → exec .ret s = .next { s with fault := .stackUnderflow })

/-- "`CALL` pushes the address after itself; `RET` resumes there" (R184 item 1): a `RET` on what a `CALL` left, wherever the
subroutine has taken `pc`, restores the caller's `pc` and `sp`. -/
def Obligations.ReturnResumesAfterCall : Prop :=
  ∀ (nnn : Addr) (s t : State) (p : Word), s.sp.val < 16 → exec (.call nnn) s = .next t →
    ∃ u, exec .ret { t with pc := p } = .next u ∧ u.pc = s.pc ∧ u.sp = s.sp

/-- R93: the sum is not reduced to 12 bits (decision D12). -/
def Obligations.JumpWithOffsetAddsRegisterZero : Prop :=
  ∀ (nnn : Addr) (s : State), ∃ t, exec (.jpV0 nnn) s = .next t ∧ t.pc.toNat = nnn.toNat + (s.readV 0).toNat ∧
    FrameExcept s t {.pc}

/-- R94, R95. -/
def Obligations.SkipsOnImmediate : Prop :=
  ∀ (x : Reg) (kk : Byte) (s : State),
    (∃ t, exec (.seImm x kk) s = .next t ∧ (s.readV x = kk → t.pc = s.pc + 2) ∧ (s.readV x ≠ kk → t.pc = s.pc) ∧
      FrameExcept s t {.pc}) ∧
    (∃ t, exec (.sneImm x kk) s = .next t ∧ (s.readV x ≠ kk → t.pc = s.pc + 2) ∧ (s.readV x = kk → t.pc = s.pc) ∧
      FrameExcept s t {.pc})

/-- R96, R97; the low nibble of the word is ignored (R64). -/
def Obligations.SkipsOnRegisters : Prop :=
  (∀ w : Word, w.toNat / 4096 = 5 → decodeWord w = some (.seReg (xField w) (yField w))) ∧
  (∀ w : Word, w.toNat / 4096 = 9 → decodeWord w = some (.sneReg (xField w) (yField w))) ∧
  ∀ (x y : Reg) (s : State),
    (∃ t, exec (.seReg x y) s = .next t ∧ (s.readV x = s.readV y → t.pc = s.pc + 2) ∧
      (s.readV x ≠ s.readV y → t.pc = s.pc) ∧ FrameExcept s t {.pc}) ∧
    (∃ t, exec (.sneReg x y) s = .next t ∧ (s.readV x ≠ s.readV y → t.pc = s.pc + 2) ∧
      (s.readV x = s.readV y → t.pc = s.pc) ∧ FrameExcept s t {.pc})

/-! ## Load, arithmetic, logic, shift, random -/

/-- R100, R102. -/
def Obligations.LoadImmediateAndCopy : Prop :=
  ∀ (x y : Reg) (kk : Byte) (s : State),
    (∃ t, exec (.ldImm x kk) s = .next t ∧ t.readV x = kk ∧ FrameExcept s t {.v x}) ∧
    (∃ t, exec (.ldReg x y) s = .next t ∧ t.readV x = s.readV y ∧ FrameExcept s t {.v x})

/-- R101: no flag, the carry is lost. -/
def Obligations.AddImmediateWraps : Prop :=
  ∀ (x : Reg) (kk : Byte) (s : State), ∃ t, exec (.addImm x kk) s = .next t ∧
    (t.readV x).toNat = ((s.readV x).toNat + kk.toNat) % 256 ∧ FrameExcept s t {.v x}

/-- R103, R104, R105, bit by bit; VF is neither written nor cleared. -/
def Obligations.LogicIsBitwise : Prop :=
  ∀ (x y : Reg) (s : State),
    (∃ t, exec (.orReg x y) s = .next t ∧ FrameExcept s t {.v x} ∧
      ∀ k < 8, (t.readV x).getLsbD k = ((s.readV x).getLsbD k || (s.readV y).getLsbD k)) ∧
    (∃ t, exec (.andReg x y) s = .next t ∧ FrameExcept s t {.v x} ∧
      ∀ k < 8, (t.readV x).getLsbD k = ((s.readV x).getLsbD k && (s.readV y).getLsbD k)) ∧
    (∃ t, exec (.xorReg x y) s = .next t ∧ FrameExcept s t {.v x} ∧
      ∀ k < 8, (t.readV x).getLsbD k = ((s.readV x).getLsbD k ^^ (s.readV y).getLsbD k))

/-- R106, for every `x` and `y`, VF among them: VF ends as the carry of the old values. -/
def Obligations.AddSetsCarry : Prop :=
  ∀ (x y : Reg) (s : State), ∃ t, exec (.addReg x y) s = .next t ∧
    (x ≠ vf → (t.readV x).toNat = ((s.readV x).toNat + (s.readV y).toNat) % 256) ∧
    (t.readV vf).toNat = ((s.readV x).toNat + (s.readV y).toNat) / 256 ∧
    FrameExcept s t {.v x, .v vf}

/-- R107, R109, for every `x` and `y`: VF ends as NOT borrow, 1 on equality. -/
def Obligations.SubtractSetsNoBorrow : Prop :=
  ∀ (x y : Reg) (s : State),
    (∃ t, exec (.sub x y) s = .next t ∧
      (x ≠ vf → ((t.readV x).toNat : Int) = ((s.readV x).toNat - (s.readV y).toNat : Int) % 256) ∧
      ((s.readV y).toNat ≤ (s.readV x).toNat → t.readV vf = 1) ∧ ((s.readV x).toNat < (s.readV y).toNat → t.readV vf = 0) ∧
      FrameExcept s t {.v x, .v vf}) ∧
    (∃ t, exec (.subn x y) s = .next t ∧
      (x ≠ vf → ((t.readV x).toNat : Int) = ((s.readV y).toNat - (s.readV x).toNat : Int) % 256) ∧
      ((s.readV x).toNat ≤ (s.readV y).toNat → t.readV vf = 1) ∧ ((s.readV y).toNat < (s.readV x).toNat → t.readV vf = 0) ∧
      FrameExcept s t {.v x, .v vf})

/-- R108, R110: VF ends as the bit shifted out of the old `V[x]`. That `V[x]` is shifted in place and `y` ignored is decision
D14. -/
def Obligations.ShiftsSetShiftedOutBit : Prop :=
  ∀ (x y : Reg) (s : State),
    (∃ t, exec (.shr x y) s = .next t ∧ (x ≠ vf → (t.readV x).toNat = (s.readV x).toNat / 2) ∧
      (t.readV vf).toNat = (s.readV x).toNat % 2 ∧ FrameExcept s t {.v x, .v vf}) ∧
    (∃ t, exec (.shl x y) s = .next t ∧ (x ≠ vf → (t.readV x).toNat = (s.readV x).toNat * 2 % 256) ∧
      (t.readV vf).toNat = (s.readV x).toNat / 128 ∧ FrameExcept s t {.v x, .v vf})

/-- R111: the drawn byte, whatever it is, masked; it is consumed even when `kk = 0`. Holds for every value of the free value. -/
def Obligations.RandomIsMasked : Prop :=
  ∀ (x : Reg) (kk : Byte) (s : State), ∃ t, exec (.rnd x kk) s = .next t ∧
    t.readV x = Config.rndByte s.rndCount &&& kk ∧ t.readV x &&& ~~~kk = 0 ∧ t.rndCount = s.rndCount + 1 ∧
    FrameExcept s t {.v x, .rnd}

/-! ## Index register and memory -/

/-- R120. -/
def Obligations.LoadIndexSetsAddress : Prop :=
  ∀ (nnn : Addr) (s : State), ∃ t, exec (.ldI nnn) s = .next t ∧ t.i.toNat = nnn.toNat ∧ FrameExcept s t {.i}

/-- R121: modulo 65536 and never masked to 12 bits (decision D12); VF is not written. -/
def Obligations.AddIndexWrapsAtSixteenBits : Prop :=
  ∀ (x : Reg) (s : State), ∃ t, exec (.addI x) s = .next t ∧
    t.i.toNat = (s.i.toNat + (s.readV x).toNat) % 65536 ∧ FrameExcept s t {.i}

/-- R122, with `FONT_BASE = 0x050` (decision D5) and the whole register value (decision D16). -/
def Obligations.FontAddressIsComputed : Prop :=
  ∀ (x : Reg) (s : State), ∃ t, exec (.ldF x) s = .next t ∧
    t.i.toNat = 0x050 + 5 * (s.readV x).toNat ∧ FrameExcept s t {.i}

/-- R123. The range check and its fault are decision D10, its latch D11. -/
def Obligations.StoreBcdWritesThreeDigits : Prop :=
  ∀ (x : Reg) (s : State),
    (s.i.toNat + 2 ≤ 0xFFF → ∃ t, exec (.ldB x) s = .next t ∧
      (∃ b, t.readByte s.i.toNat = some b ∧ b.toNat = (s.readV x).toNat / 100) ∧
      (∃ b, t.readByte (s.i.toNat + 1) = some b ∧ b.toNat = (s.readV x).toNat / 10 % 10) ∧
      (∃ b, t.readByte (s.i.toNat + 2) = some b ∧ b.toNat = (s.readV x).toNat % 10) ∧
      FrameExcept s t {.mem s.i.toNat, .mem (s.i.toNat + 1), .mem (s.i.toNat + 2)}) ∧
    (0xFFF < s.i.toNat + 2 → exec (.ldB x) s = .next { s with fault := .addressOutOfRange })

/-- R124. That `I` is unchanged is decision D13, the range check and its fault decision D10, its latch D11.
-/
def Obligations.RegisterDumpStoresBlock : Prop :=
  ∀ (x : Reg) (s : State),
    (s.i.toNat + x.val ≤ 0xFFF → ∃ t, exec (.dump x) s = .next t ∧
      (∀ k : Reg, k ≤ x → t.readByte (s.i.toNat + k.val) = some (s.readV k)) ∧
      FrameExcept s t {p | ∃ k : Reg, k ≤ x ∧ p = .mem (s.i.toNat + k.val)}) ∧
    (0xFFF < s.i.toNat + x.val → exec (.dump x) s = .next { s with fault := .addressOutOfRange })

/-- R125. That `I` is unchanged is decision D13, the range check and its fault decision D10, its latch D11.
-/
def Obligations.RegisterLoadReadsBlock : Prop :=
  ∀ (x : Reg) (s : State),
    (s.i.toNat + x.val ≤ 0xFFF → ∃ t, exec (.load x) s = .next t ∧
      (∀ k : Reg, k ≤ x → some (t.readV k) = s.readByte (s.i.toNat + k.val)) ∧
      FrameExcept s t {p | ∃ k : Reg, k ≤ x ∧ p = .v k}) ∧
    (0xFFF < s.i.toNat + x.val → exec (.load x) s = .next { s with fault := .addressOutOfRange })

/-- A register load through the same `I`, from any state with the memory a register dump left, gives the dumped registers back
(R124, R125, R50). -/
def Obligations.LoadAfterDumpRestores : Prop :=
  ∀ (x : Reg) (s t u : State), s.i.toNat + x.val ≤ 0xFFF → exec (.dump x) s = .next t → u.mem = t.mem → u.i = s.i →
    ∃ u', exec (.load x) u = .next u' ∧ ∀ k : Reg, k ≤ x → u'.readV k = s.readV k

/-- A store is seen by the next fetch (R52): with `pc` on two dumped bytes, the fetch reads them, the first one high. -/
def Obligations.StoreIsSeenByFetch : Prop :=
  ∀ (x j k : Reg) (s t : State), s.i.toNat + x.val ≤ 0xFFF → exec (.dump x) s = .next t → k.val = j.val + 1 → k ≤ x →
    State.fetch { t with pc := BitVec.ofNat 16 (s.i.toNat + j.val) } = some (s.readV j ++ s.readV k)

/-! ## Display -/

/-- R130. -/
def Obligations.ClearTurnsEveryPixelOff : Prop :=
  ∀ s : State, ∃ t, exec .cls s = .next t ∧ (∀ r c, t.fb.pixel r c = false) ∧ FrameExcept s t {p | ∃ r c, p = .pixel r c}

/-- R131, pixel by pixel: the framebuffer is XORed with the visible part of the sprite, and VF tells whether an on sprite pixel
met an on pixel. The range check and its fault are decision D10, its latch D11, the 64 by 32 display D4, the bit order D6,
dropping D7, the order of the operand reads and `n = 0` D8. -/
def Obligations.DrawXorsSpriteAndCollides : Prop :=
  ∀ (x y : Reg) (n : Nat) (s : State),
    (n = 0 ∨ s.i.toNat + n - 1 ≤ 0xFFF → ∃ t, exec (.drw x y n) s = .next t ∧
      (∀ r c, r < 32 → c < 64 → t.fb.pixel r c = (s.fb.pixel r c ^^ spriteOn s x y n r c)) ∧
      ((∃ r c, r < 32 ∧ c < 64 ∧ spriteOn s x y n r c = true ∧ s.fb.pixel r c = true) → t.readV vf = 1) ∧
      ((∀ r c, r < 32 → c < 64 → spriteOn s x y n r c = true → s.fb.pixel r c = false) → t.readV vf = 0) ∧
      FrameExcept s t {p | p = .v vf ∨ ∃ r c, r < 32 ∧ c < 64 ∧ p = .pixel r c}) ∧
    (0 < n → 0xFFF < s.i.toNat + n - 1 → exec (.drw x y n) s = .next { s with fault := .addressOutOfRange })

/-- Drawing the same sprite twice at the same place restores the framebuffer (R131, corner cases), and the second draw collides
exactly when a visible on pixel of the sprite lies where the framebuffer was off before the first: the first draw has turned
those pixels on. The place is the same when neither coordinate register is VF; when one is, the hypothesis is that the flag of
the first draw leaves it so, and the decisions of `DrawXorsSpriteAndCollides` hold here too. The corner case of R131 that the second draw
"gives VF = 1 if the sprite has any visible on pixel" is not what R131's pseudocode computes where the framebuffer was on; the
pseudocode is followed (log entry 9). -/
def Obligations.DrawTwiceRestoresFramebuffer : Prop :=
  ∀ (x y : Reg) (n : Nat) (s t u : State), (n = 0 ∨ s.i.toNat + n - 1 ≤ 0xFFF) →
    exec (.drw x y n) s = .next t → exec (.drw x y n) t = .next u →
    (x = vf → t.spriteColumn vf = s.spriteColumn vf) → (y = vf → t.spriteRow vf = s.spriteRow vf) →
      u.fb = s.fb ∧
      (u.readV vf = 1 ↔ ∃ r c, r < 32 ∧ c < 64 ∧ spriteOn s x y n r c = true ∧ s.fb.pixel r c = false)

/-! ## Keypad and timers -/

/-- R140, R141. That a register value above 15 selects by its low four bits is decision D15. -/
def Obligations.KeySkipsFollowLatch : Prop :=
  ∀ (x k : Reg) (s : State), (s.readV x).toNat % 16 = k.val →
    (∃ t, exec (.skp x) s = .next t ∧ (s.readKey k = true → t.pc = s.pc + 2) ∧ (s.readKey k = false → t.pc = s.pc) ∧
      FrameExcept s t {.pc}) ∧
    (∃ t, exec (.sknp x) s = .next t ∧ (s.readKey k = false → t.pc = s.pc + 2) ∧ (s.readKey k = true → t.pc = s.pc) ∧
      FrameExcept s t {.pc})

/-- R142: the lowest pressed key is stored; with no key pressed `pc` goes back by 2 and nothing else changes, so that the tick
leaves `pc` at this instruction and the timers count on. -/
def Obligations.WaitForKeyRepeats : Prop :=
  ∀ (x : Reg) (s : State),
    (∀ k : Reg, s.readKey k = true → (∀ j : Reg, j < k → s.readKey j = false) →
      ∃ t, exec (.ldVxK x) s = .next t ∧ (t.readV x).toNat = k.val ∧ FrameExcept s t {.v x}) ∧
    ((∀ k : Reg, s.readKey k = false) →
      ∃ t, exec (.ldVxK x) s = .next t ∧ t.pc = s.pc - 2 ∧ FrameExcept s t {.pc}) ∧
    ((∀ k : Reg, s.readKey k = false) → s.runs (.ldVxK x) →
      ∃ t, step s = .next t ∧ t.pc = s.pc ∧ t.dt.toNat = s.dt.toNat - 1 ∧ t.st.toNat = s.st.toNat - 1 ∧
        FrameExcept s t {.dt, .st, .ir})

/-- R143, R144, R145: the transfers of the execute step, and what the tick's own timer step leaves of them. -/
def Obligations.TimerTransfers : Prop :=
  ∀ (x : Reg) (s : State),
    (∃ t, exec (.ldVxDt x) s = .next t ∧ t.readV x = s.dt ∧ FrameExcept s t {.v x}) ∧
    (∃ t, exec (.ldDtVx x) s = .next t ∧ t.dt = s.readV x ∧ FrameExcept s t {.dt}) ∧
    (∃ t, exec (.ldStVx x) s = .next t ∧ t.st = s.readV x ∧ FrameExcept s t {.st}) ∧
    (s.runs (.ldVxDt x) → ∃ t, step s = .next t ∧ t.readV x = s.dt ∧ t.dt.toNat = s.dt.toNat - 1) ∧
    (s.runs (.ldDtVx x) → ∃ t, step s = .next t ∧ t.dt.toNat = (s.readV x).toNat - 1 ∧ t.st.toNat = s.st.toNat - 1) ∧
    (s.runs (.ldStVx x) → ∃ t, step s = .next t ∧ t.st.toNat = (s.readV x).toNat - 1 ∧ t.dt.toNat = s.dt.toNat - 1)

/-! ## Reset and the host -/

/-- The reset values of R29 with an empty image. `FAULT` cleared is decision D21, the font bytes and their base decision D5, the
display size decision D4. `IR` and the model's own `rndCount` have no reset value in the spec and are not stated. -/
def Obligations.ResetValues : Prop :=
  (∀ x, State.reset.readV x = 0) ∧ State.reset.i = 0 ∧ State.reset.pc = 0x0200 ∧ State.reset.sp.val = 0 ∧
  (∀ k : Fin 16, State.reset.stack[k] = 0) ∧ State.reset.dt = 0 ∧ State.reset.st = 0 ∧
  (∀ r c, State.reset.fb.pixel r c = false) ∧ (∀ k, State.reset.readKey k = false) ∧ State.reset.faultRead = 0 ∧
  (∀ a, a < 0x050 ∨ 0x09F < a ∧ a ≤ 0xFFF → State.reset.readByte a = some 0) ∧
  (∀ a, 0xFFF < a → State.reset.readByte a = none) ∧
  (List.range 80).map (fun k => State.reset.readByte (0x050 + k)) =
    (([0xF0, 0x90, 0x90, 0x90, 0xF0] ++ [0x20, 0x60, 0x20, 0x20, 0x70] ++
      [0xF0, 0x10, 0xF0, 0x80, 0xF0] ++ [0xF0, 0x10, 0xF0, 0x10, 0xF0] ++
      [0x90, 0x90, 0xF0, 0x10, 0x10] ++ [0xF0, 0x80, 0xF0, 0x10, 0xF0] ++
      [0xF0, 0x80, 0xF0, 0x90, 0xF0] ++ [0xF0, 0x10, 0x20, 0x40, 0x40] ++
      [0xF0, 0x90, 0xF0, 0x90, 0xF0] ++ [0xF0, 0x90, 0xF0, 0x10, 0xF0] ++
      [0xF0, 0x90, 0xF0, 0x90, 0x90] ++ [0xE0, 0x90, 0xE0, 0x90, 0xE0] ++
      [0xF0, 0x80, 0x80, 0x80, 0xF0] ++ [0xE0, 0x90, 0x90, 0x90, 0xE0] ++
      [0xF0, 0x80, 0xF0, 0x80, 0xF0] ++ [0xF0, 0x80, 0xF0, 0x80, 0x80] :
      List Byte).map some)

/-- R180: a reset with an image of at most 3584 bytes, from any state, copies it byte for byte to `0x200` and up and leaves all
else at its reset value, the latch clear; a longer image gives `InvalidProgramSize` and no state (R151, R181, decision D21). For
`IR`, which R29 leaves unspecified, that value is the model's choice (log entry 1, DESIGN CHOICE); `rndCount` is not stated. -/
def Obligations.ResetLoadsProgramImage : Prop :=
  ∀ (image : List Byte) (s : State),
    (image.length ≤ 3584 → ∃ t, hostReset image s = .next t ∧
      (∀ k, (h : k < image.length) → t.readByte (0x200 + k) = some image[k]) ∧
      (∀ a, a < 0x200 ∨ 0x200 + image.length ≤ a → t.readByte a = State.reset.readByte a) ∧
      t.faultRead = 0 ∧ { t with mem := State.reset.mem, rndCount := State.reset.rndCount } = State.reset) ∧
    (3584 < image.length → hostReset image s = .fault .invalidProgramSize)

/-- The host reads the framebuffer as the flat array of R19, `FB[r][c]` at `r * 64 + c` (decision D4), 2048 pixels. -/
def Obligations.FramebufferReadIsRowMajor : Prop :=
  ∀ s : State, s.framebufferRead.length = 2048 ∧
    ∀ r c, r < 32 → c < 64 → s.framebufferRead[r * 64 + c]? = some (s.fb.pixel r c)

/-- The host's write of one key flag changes that flag alone (R172, R20). -/
def Obligations.KeyWriteChangesOneFlag : Prop :=
  ∀ (s : State) (k : Reg) (pressed : Bool), ∃ t, hostEvent (.keyWrite k pressed) s = .next t ∧
    t.readKey k = pressed ∧ FrameExcept s t {.key k}
end

