-- ==== Sys2Proof/Laws/Decode.lean ====
section
/-! SUPPORT. Fields and formats as numbers (R61, R62): each field is a quotient and remainder of the word, and each format a
sum, so that the fields of an encoded word are the operands it was built from. -/

namespace Sys2Proof

variable (w : Word) (f : BitVec 4) (x y : Reg) (kk : Byte) (nnn : Addr) (n : BitVec 4)

/-! ## Fields of a word -/

theorem familyField_toNat : (familyField w).toNat = w.toNat / 4096 := by
  have := w.isLt
  simp [familyField, Nat.shiftRight_eq_div_pow]; omega

theorem xField_val : (xField w).val = w.toNat / 256 % 16 := by
  simp [xField, Nat.shiftRight_eq_div_pow]

theorem yField_val : (yField w).val = w.toNat / 16 % 16 := by
  simp [yField, Nat.shiftRight_eq_div_pow]

theorem nField_toNat : (nField w).toNat = w.toNat % 16 := by
  simp [nField]

theorem kkField_toNat : (kkField w).toNat = w.toNat % 256 := by
  simp [kkField]

theorem nnnField_toNat : (nnnField w).toNat = w.toNat % 4096 := by
  simp [nnnField]

/-! ## Words of a format -/

theorem toNat_append_eq {a b : Nat} (u : BitVec a) (v : BitVec b) : (u ++ v).toNat = u.toNat * 2 ^ b + v.toNat := by
  rw [BitVec.toNat_append, ← Nat.shiftLeft_add_eq_or_of_lt v.isLt, Nat.shiftLeft_eq]

@[simp] theorem regBits_toNat : (regBits x).toNat = x.val := rfl

theorem encodeNnn_toNat : (encodeNnn f nnn).toNat = f.toNat * 4096 + nnn.toNat := toNat_append_eq ..

theorem encodeXkk_toNat : (encodeXkk f x kk).toNat = f.toNat * 4096 + x.val * 256 + kk.toNat := by
  have h : (encodeXkk f x kk).toNat = (f.toNat * 2 ^ 4 + (regBits x).toNat) * 2 ^ 8 + kk.toNat := by
    rw [← toNat_append_eq, ← toNat_append_eq]; rfl
  rw [h, regBits_toNat]; omega

theorem encodeXyn_toNat : (encodeXyn f x y n).toNat = f.toNat * 4096 + x.val * 256 + y.val * 16 + n.toNat := by
  have h : (encodeXyn f x y n).toNat =
      (f.toNat * 2 ^ 4 + (regBits x).toNat) * 2 ^ 8 + ((regBits y).toNat * 2 ^ 4 + n.toNat) := by
    rw [← toNat_append_eq, ← toNat_append_eq, ← toNat_append_eq]; rfl
  rw [h, regBits_toNat, regBits_toNat]; omega

/-! ## Fields of a format's word -/

@[simp] theorem familyField_nnn : (familyField (encodeNnn f nnn)).toNat = f.toNat := by
  have := nnn.isLt
  rw [familyField_toNat, encodeNnn_toNat]; omega

@[simp] theorem nnnField_nnn : nnnField (encodeNnn f nnn) = nnn := by
  have := nnn.isLt
  apply BitVec.eq_of_toNat_eq
  rw [nnnField_toNat, encodeNnn_toNat]; omega

@[simp] theorem familyField_xkk : (familyField (encodeXkk f x kk)).toNat = f.toNat := by
  have := kk.isLt; have := x.isLt
  rw [familyField_toNat, encodeXkk_toNat]; omega

@[simp] theorem xField_xkk : xField (encodeXkk f x kk) = x := by
  have := kk.isLt; have := x.isLt
  apply Fin.ext
  rw [xField_val, encodeXkk_toNat]; omega

@[simp] theorem kkField_xkk : kkField (encodeXkk f x kk) = kk := by
  have := kk.isLt
  apply BitVec.eq_of_toNat_eq
  rw [kkField_toNat, encodeXkk_toNat]; omega

@[simp] theorem familyField_xyn : (familyField (encodeXyn f x y n)).toNat = f.toNat := by
  have := n.isLt; have := x.isLt; have := y.isLt
  rw [familyField_toNat, encodeXyn_toNat]; omega

@[simp] theorem xField_xyn : xField (encodeXyn f x y n) = x := by
  have := n.isLt; have := x.isLt; have := y.isLt
  apply Fin.ext
  rw [xField_val, encodeXyn_toNat]; omega

@[simp] theorem yField_xyn : yField (encodeXyn f x y n) = y := by
  have := n.isLt; have := y.isLt
  apply Fin.ext
  rw [yField_val, encodeXyn_toNat]; omega

@[simp] theorem nField_xyn : nField (encodeXyn f x y n) = n := by
  have := n.isLt
  apply BitVec.eq_of_toNat_eq
  rw [nField_toNat, encodeXyn_toNat]; omega

end Sys2Proof
end

