-- ==== Sys2Proof/Laws/State.lean ====
section
/-! SUPPORT. One lemma per field and named update of the state, so that no later proof unfolds a record update. -/

namespace Sys2Proof.Machine

open Sys2Proof

variable (s : State)

/-! `writeMem` -/

@[simp] theorem State.writeMem_v (m : Memory) : (s.writeMem m).v = s.v := rfl
@[simp] theorem State.writeMem_i (m : Memory) : (s.writeMem m).i = s.i := rfl
@[simp] theorem State.writeMem_pc (m : Memory) : (s.writeMem m).pc = s.pc := rfl
@[simp] theorem State.writeMem_sp (m : Memory) : (s.writeMem m).sp = s.sp := rfl
@[simp] theorem State.writeMem_stack (m : Memory) : (s.writeMem m).stack = s.stack := rfl
@[simp] theorem State.writeMem_dt (m : Memory) : (s.writeMem m).dt = s.dt := rfl
@[simp] theorem State.writeMem_st (m : Memory) : (s.writeMem m).st = s.st := rfl
@[simp] theorem State.writeMem_mem (m : Memory) : (s.writeMem m).mem = m := rfl
@[simp] theorem State.writeMem_fb (m : Memory) : (s.writeMem m).fb = s.fb := rfl
@[simp] theorem State.writeMem_key (m : Memory) : (s.writeMem m).key = s.key := rfl
@[simp] theorem State.writeMem_fault (m : Memory) : (s.writeMem m).fault = s.fault := rfl
@[simp] theorem State.writeMem_ir (m : Memory) : (s.writeMem m).ir = s.ir := rfl
@[simp] theorem State.writeMem_rndCount (m : Memory) : (s.writeMem m).rndCount = s.rndCount := rfl

/-! `writeV` -/

@[simp] theorem State.writeV_v (x : Reg) (b : Byte) : (s.writeV x b).v = s.v.set x b := rfl
@[simp] theorem State.writeV_i (x : Reg) (b : Byte) : (s.writeV x b).i = s.i := rfl
@[simp] theorem State.writeV_pc (x : Reg) (b : Byte) : (s.writeV x b).pc = s.pc := rfl
@[simp] theorem State.writeV_sp (x : Reg) (b : Byte) : (s.writeV x b).sp = s.sp := rfl
@[simp] theorem State.writeV_stack (x : Reg) (b : Byte) : (s.writeV x b).stack = s.stack := rfl
@[simp] theorem State.writeV_dt (x : Reg) (b : Byte) : (s.writeV x b).dt = s.dt := rfl
@[simp] theorem State.writeV_st (x : Reg) (b : Byte) : (s.writeV x b).st = s.st := rfl
@[simp] theorem State.writeV_mem (x : Reg) (b : Byte) : (s.writeV x b).mem = s.mem := rfl
@[simp] theorem State.writeV_fb (x : Reg) (b : Byte) : (s.writeV x b).fb = s.fb := rfl
@[simp] theorem State.writeV_key (x : Reg) (b : Byte) : (s.writeV x b).key = s.key := rfl
@[simp] theorem State.writeV_fault (x : Reg) (b : Byte) : (s.writeV x b).fault = s.fault := rfl
@[simp] theorem State.writeV_ir (x : Reg) (b : Byte) : (s.writeV x b).ir = s.ir := rfl
@[simp] theorem State.writeV_rndCount (x : Reg) (b : Byte) : (s.writeV x b).rndCount = s.rndCount := rfl

/-! `writeRegs` -/

@[simp] theorem State.writeRegs_v (bs : List Byte) : (s.writeRegs bs).v = loadRegs s.v 0 bs := rfl
@[simp] theorem State.writeRegs_i (bs : List Byte) : (s.writeRegs bs).i = s.i := rfl
@[simp] theorem State.writeRegs_pc (bs : List Byte) : (s.writeRegs bs).pc = s.pc := rfl
@[simp] theorem State.writeRegs_sp (bs : List Byte) : (s.writeRegs bs).sp = s.sp := rfl
@[simp] theorem State.writeRegs_stack (bs : List Byte) : (s.writeRegs bs).stack = s.stack := rfl
@[simp] theorem State.writeRegs_dt (bs : List Byte) : (s.writeRegs bs).dt = s.dt := rfl
@[simp] theorem State.writeRegs_st (bs : List Byte) : (s.writeRegs bs).st = s.st := rfl
@[simp] theorem State.writeRegs_mem (bs : List Byte) : (s.writeRegs bs).mem = s.mem := rfl
@[simp] theorem State.writeRegs_fb (bs : List Byte) : (s.writeRegs bs).fb = s.fb := rfl
@[simp] theorem State.writeRegs_key (bs : List Byte) : (s.writeRegs bs).key = s.key := rfl
@[simp] theorem State.writeRegs_fault (bs : List Byte) : (s.writeRegs bs).fault = s.fault := rfl
@[simp] theorem State.writeRegs_ir (bs : List Byte) : (s.writeRegs bs).ir = s.ir := rfl
@[simp] theorem State.writeRegs_rndCount (bs : List Byte) : (s.writeRegs bs).rndCount = s.rndCount := rfl

/-! `writeI` -/

@[simp] theorem State.writeI_v (w : Word) : (s.writeI w).v = s.v := rfl
@[simp] theorem State.writeI_i (w : Word) : (s.writeI w).i = w := rfl
@[simp] theorem State.writeI_pc (w : Word) : (s.writeI w).pc = s.pc := rfl
@[simp] theorem State.writeI_sp (w : Word) : (s.writeI w).sp = s.sp := rfl
@[simp] theorem State.writeI_stack (w : Word) : (s.writeI w).stack = s.stack := rfl
@[simp] theorem State.writeI_dt (w : Word) : (s.writeI w).dt = s.dt := rfl
@[simp] theorem State.writeI_st (w : Word) : (s.writeI w).st = s.st := rfl
@[simp] theorem State.writeI_mem (w : Word) : (s.writeI w).mem = s.mem := rfl
@[simp] theorem State.writeI_fb (w : Word) : (s.writeI w).fb = s.fb := rfl
@[simp] theorem State.writeI_key (w : Word) : (s.writeI w).key = s.key := rfl
@[simp] theorem State.writeI_fault (w : Word) : (s.writeI w).fault = s.fault := rfl
@[simp] theorem State.writeI_ir (w : Word) : (s.writeI w).ir = s.ir := rfl
@[simp] theorem State.writeI_rndCount (w : Word) : (s.writeI w).rndCount = s.rndCount := rfl

/-! `writePc` -/

@[simp] theorem State.writePc_v (w : Word) : (s.writePc w).v = s.v := rfl
@[simp] theorem State.writePc_i (w : Word) : (s.writePc w).i = s.i := rfl
@[simp] theorem State.writePc_pc (w : Word) : (s.writePc w).pc = w := rfl
@[simp] theorem State.writePc_sp (w : Word) : (s.writePc w).sp = s.sp := rfl
@[simp] theorem State.writePc_stack (w : Word) : (s.writePc w).stack = s.stack := rfl
@[simp] theorem State.writePc_dt (w : Word) : (s.writePc w).dt = s.dt := rfl
@[simp] theorem State.writePc_st (w : Word) : (s.writePc w).st = s.st := rfl
@[simp] theorem State.writePc_mem (w : Word) : (s.writePc w).mem = s.mem := rfl
@[simp] theorem State.writePc_fb (w : Word) : (s.writePc w).fb = s.fb := rfl
@[simp] theorem State.writePc_key (w : Word) : (s.writePc w).key = s.key := rfl
@[simp] theorem State.writePc_fault (w : Word) : (s.writePc w).fault = s.fault := rfl
@[simp] theorem State.writePc_ir (w : Word) : (s.writePc w).ir = s.ir := rfl
@[simp] theorem State.writePc_rndCount (w : Word) : (s.writePc w).rndCount = s.rndCount := rfl

/-! `writeDt` -/

@[simp] theorem State.writeDt_v (b : Byte) : (s.writeDt b).v = s.v := rfl
@[simp] theorem State.writeDt_i (b : Byte) : (s.writeDt b).i = s.i := rfl
@[simp] theorem State.writeDt_pc (b : Byte) : (s.writeDt b).pc = s.pc := rfl
@[simp] theorem State.writeDt_sp (b : Byte) : (s.writeDt b).sp = s.sp := rfl
@[simp] theorem State.writeDt_stack (b : Byte) : (s.writeDt b).stack = s.stack := rfl
@[simp] theorem State.writeDt_dt (b : Byte) : (s.writeDt b).dt = b := rfl
@[simp] theorem State.writeDt_st (b : Byte) : (s.writeDt b).st = s.st := rfl
@[simp] theorem State.writeDt_mem (b : Byte) : (s.writeDt b).mem = s.mem := rfl
@[simp] theorem State.writeDt_fb (b : Byte) : (s.writeDt b).fb = s.fb := rfl
@[simp] theorem State.writeDt_key (b : Byte) : (s.writeDt b).key = s.key := rfl
@[simp] theorem State.writeDt_fault (b : Byte) : (s.writeDt b).fault = s.fault := rfl
@[simp] theorem State.writeDt_ir (b : Byte) : (s.writeDt b).ir = s.ir := rfl
@[simp] theorem State.writeDt_rndCount (b : Byte) : (s.writeDt b).rndCount = s.rndCount := rfl

/-! `writeSt` -/

@[simp] theorem State.writeSt_v (b : Byte) : (s.writeSt b).v = s.v := rfl
@[simp] theorem State.writeSt_i (b : Byte) : (s.writeSt b).i = s.i := rfl
@[simp] theorem State.writeSt_pc (b : Byte) : (s.writeSt b).pc = s.pc := rfl
@[simp] theorem State.writeSt_sp (b : Byte) : (s.writeSt b).sp = s.sp := rfl
@[simp] theorem State.writeSt_stack (b : Byte) : (s.writeSt b).stack = s.stack := rfl
@[simp] theorem State.writeSt_dt (b : Byte) : (s.writeSt b).dt = s.dt := rfl
@[simp] theorem State.writeSt_st (b : Byte) : (s.writeSt b).st = b := rfl
@[simp] theorem State.writeSt_mem (b : Byte) : (s.writeSt b).mem = s.mem := rfl
@[simp] theorem State.writeSt_fb (b : Byte) : (s.writeSt b).fb = s.fb := rfl
@[simp] theorem State.writeSt_key (b : Byte) : (s.writeSt b).key = s.key := rfl
@[simp] theorem State.writeSt_fault (b : Byte) : (s.writeSt b).fault = s.fault := rfl
@[simp] theorem State.writeSt_ir (b : Byte) : (s.writeSt b).ir = s.ir := rfl
@[simp] theorem State.writeSt_rndCount (b : Byte) : (s.writeSt b).rndCount = s.rndCount := rfl

/-! `writeFb` -/

@[simp] theorem State.writeFb_v (fb : Framebuffer) : (s.writeFb fb).v = s.v := rfl
@[simp] theorem State.writeFb_i (fb : Framebuffer) : (s.writeFb fb).i = s.i := rfl
@[simp] theorem State.writeFb_pc (fb : Framebuffer) : (s.writeFb fb).pc = s.pc := rfl
@[simp] theorem State.writeFb_sp (fb : Framebuffer) : (s.writeFb fb).sp = s.sp := rfl
@[simp] theorem State.writeFb_stack (fb : Framebuffer) : (s.writeFb fb).stack = s.stack := rfl
@[simp] theorem State.writeFb_dt (fb : Framebuffer) : (s.writeFb fb).dt = s.dt := rfl
@[simp] theorem State.writeFb_st (fb : Framebuffer) : (s.writeFb fb).st = s.st := rfl
@[simp] theorem State.writeFb_mem (fb : Framebuffer) : (s.writeFb fb).mem = s.mem := rfl
@[simp] theorem State.writeFb_fb (fb : Framebuffer) : (s.writeFb fb).fb = fb := rfl
@[simp] theorem State.writeFb_key (fb : Framebuffer) : (s.writeFb fb).key = s.key := rfl
@[simp] theorem State.writeFb_fault (fb : Framebuffer) : (s.writeFb fb).fault = s.fault := rfl
@[simp] theorem State.writeFb_ir (fb : Framebuffer) : (s.writeFb fb).ir = s.ir := rfl
@[simp] theorem State.writeFb_rndCount (fb : Framebuffer) : (s.writeFb fb).rndCount = s.rndCount := rfl

/-! `writeKey` -/

@[simp] theorem State.writeKey_v (k : Reg) (p : Bool) : (s.writeKey k p).v = s.v := rfl
@[simp] theorem State.writeKey_i (k : Reg) (p : Bool) : (s.writeKey k p).i = s.i := rfl
@[simp] theorem State.writeKey_pc (k : Reg) (p : Bool) : (s.writeKey k p).pc = s.pc := rfl
@[simp] theorem State.writeKey_sp (k : Reg) (p : Bool) : (s.writeKey k p).sp = s.sp := rfl
@[simp] theorem State.writeKey_stack (k : Reg) (p : Bool) : (s.writeKey k p).stack = s.stack := rfl
@[simp] theorem State.writeKey_dt (k : Reg) (p : Bool) : (s.writeKey k p).dt = s.dt := rfl
@[simp] theorem State.writeKey_st (k : Reg) (p : Bool) : (s.writeKey k p).st = s.st := rfl
@[simp] theorem State.writeKey_mem (k : Reg) (p : Bool) : (s.writeKey k p).mem = s.mem := rfl
@[simp] theorem State.writeKey_fb (k : Reg) (p : Bool) : (s.writeKey k p).fb = s.fb := rfl
@[simp] theorem State.writeKey_key (k : Reg) (p : Bool) : (s.writeKey k p).key = s.key.set k p := rfl
@[simp] theorem State.writeKey_fault (k : Reg) (p : Bool) : (s.writeKey k p).fault = s.fault := rfl
@[simp] theorem State.writeKey_ir (k : Reg) (p : Bool) : (s.writeKey k p).ir = s.ir := rfl
@[simp] theorem State.writeKey_rndCount (k : Reg) (p : Bool) : (s.writeKey k p).rndCount = s.rndCount := rfl

/-! `writeIr` -/

@[simp] theorem State.writeIr_v (w : Word) : (s.writeIr w).v = s.v := rfl
@[simp] theorem State.writeIr_i (w : Word) : (s.writeIr w).i = s.i := rfl
@[simp] theorem State.writeIr_pc (w : Word) : (s.writeIr w).pc = s.pc := rfl
@[simp] theorem State.writeIr_sp (w : Word) : (s.writeIr w).sp = s.sp := rfl
@[simp] theorem State.writeIr_stack (w : Word) : (s.writeIr w).stack = s.stack := rfl
@[simp] theorem State.writeIr_dt (w : Word) : (s.writeIr w).dt = s.dt := rfl
@[simp] theorem State.writeIr_st (w : Word) : (s.writeIr w).st = s.st := rfl
@[simp] theorem State.writeIr_mem (w : Word) : (s.writeIr w).mem = s.mem := rfl
@[simp] theorem State.writeIr_fb (w : Word) : (s.writeIr w).fb = s.fb := rfl
@[simp] theorem State.writeIr_key (w : Word) : (s.writeIr w).key = s.key := rfl
@[simp] theorem State.writeIr_fault (w : Word) : (s.writeIr w).fault = s.fault := rfl
@[simp] theorem State.writeIr_ir (w : Word) : (s.writeIr w).ir = w := rfl
@[simp] theorem State.writeIr_rndCount (w : Word) : (s.writeIr w).rndCount = s.rndCount := rfl

/-! `consumeRnd` -/

@[simp] theorem State.consumeRnd_v : s.consumeRnd.v = s.v := rfl
@[simp] theorem State.consumeRnd_i : s.consumeRnd.i = s.i := rfl
@[simp] theorem State.consumeRnd_pc : s.consumeRnd.pc = s.pc := rfl
@[simp] theorem State.consumeRnd_sp : s.consumeRnd.sp = s.sp := rfl
@[simp] theorem State.consumeRnd_stack : s.consumeRnd.stack = s.stack := rfl
@[simp] theorem State.consumeRnd_dt : s.consumeRnd.dt = s.dt := rfl
@[simp] theorem State.consumeRnd_st : s.consumeRnd.st = s.st := rfl
@[simp] theorem State.consumeRnd_mem : s.consumeRnd.mem = s.mem := rfl
@[simp] theorem State.consumeRnd_fb : s.consumeRnd.fb = s.fb := rfl
@[simp] theorem State.consumeRnd_key : s.consumeRnd.key = s.key := rfl
@[simp] theorem State.consumeRnd_fault : s.consumeRnd.fault = s.fault := rfl
@[simp] theorem State.consumeRnd_ir : s.consumeRnd.ir = s.ir := rfl
@[simp] theorem State.consumeRnd_rndCount : s.consumeRnd.rndCount = s.rndCount + 1 := rfl

/-! `timerTick` -/

@[simp] theorem State.timerTick_v : s.timerTick.v = s.v := rfl
@[simp] theorem State.timerTick_i : s.timerTick.i = s.i := rfl
@[simp] theorem State.timerTick_pc : s.timerTick.pc = s.pc := rfl
@[simp] theorem State.timerTick_sp : s.timerTick.sp = s.sp := rfl
@[simp] theorem State.timerTick_stack : s.timerTick.stack = s.stack := rfl
@[simp] theorem State.timerTick_dt : s.timerTick.dt = countDown s.dt := rfl
@[simp] theorem State.timerTick_st : s.timerTick.st = countDown s.st := rfl
@[simp] theorem State.timerTick_mem : s.timerTick.mem = s.mem := rfl
@[simp] theorem State.timerTick_fb : s.timerTick.fb = s.fb := rfl
@[simp] theorem State.timerTick_key : s.timerTick.key = s.key := rfl
@[simp] theorem State.timerTick_fault : s.timerTick.fault = s.fault := rfl
@[simp] theorem State.timerTick_ir : s.timerTick.ir = s.ir := rfl
@[simp] theorem State.timerTick_rndCount : s.timerTick.rndCount = s.rndCount := rfl

/-! `raise` -/

@[simp] theorem State.raise_v (c : Cause) : (s.raise c).v = s.v := rfl
@[simp] theorem State.raise_i (c : Cause) : (s.raise c).i = s.i := rfl
@[simp] theorem State.raise_pc (c : Cause) : (s.raise c).pc = s.pc := rfl
@[simp] theorem State.raise_sp (c : Cause) : (s.raise c).sp = s.sp := rfl
@[simp] theorem State.raise_stack (c : Cause) : (s.raise c).stack = s.stack := rfl
@[simp] theorem State.raise_dt (c : Cause) : (s.raise c).dt = s.dt := rfl
@[simp] theorem State.raise_st (c : Cause) : (s.raise c).st = s.st := rfl
@[simp] theorem State.raise_mem (c : Cause) : (s.raise c).mem = s.mem := rfl
@[simp] theorem State.raise_fb (c : Cause) : (s.raise c).fb = s.fb := rfl
@[simp] theorem State.raise_key (c : Cause) : (s.raise c).key = s.key := rfl
@[simp] theorem State.raise_fault (c : Cause) : (s.raise c).fault = c := rfl
@[simp] theorem State.raise_ir (c : Cause) : (s.raise c).ir = s.ir := rfl
@[simp] theorem State.raise_rndCount (c : Cause) : (s.raise c).rndCount = s.rndCount := rfl

/-! `advance` -/

@[simp] theorem State.advance_v (w : Word) : (s.advance w).v = s.v := rfl
@[simp] theorem State.advance_i (w : Word) : (s.advance w).i = s.i := rfl
@[simp] theorem State.advance_pc (w : Word) : (s.advance w).pc = s.pc + 2 := rfl
@[simp] theorem State.advance_sp (w : Word) : (s.advance w).sp = s.sp := rfl
@[simp] theorem State.advance_stack (w : Word) : (s.advance w).stack = s.stack := rfl
@[simp] theorem State.advance_dt (w : Word) : (s.advance w).dt = s.dt := rfl
@[simp] theorem State.advance_st (w : Word) : (s.advance w).st = s.st := rfl
@[simp] theorem State.advance_mem (w : Word) : (s.advance w).mem = s.mem := rfl
@[simp] theorem State.advance_fb (w : Word) : (s.advance w).fb = s.fb := rfl
@[simp] theorem State.advance_key (w : Word) : (s.advance w).key = s.key := rfl
@[simp] theorem State.advance_fault (w : Word) : (s.advance w).fault = s.fault := rfl
@[simp] theorem State.advance_ir (w : Word) : (s.advance w).ir = w := rfl
@[simp] theorem State.advance_rndCount (w : Word) : (s.advance w).rndCount = s.rndCount := rfl

/-! `writeFlag` -/

@[simp] theorem State.writeFlag_v (f : Bool) : (s.writeFlag f).v = s.v.set vf (flagByte f) := rfl
@[simp] theorem State.writeFlag_i (f : Bool) : (s.writeFlag f).i = s.i := rfl
@[simp] theorem State.writeFlag_pc (f : Bool) : (s.writeFlag f).pc = s.pc := rfl
@[simp] theorem State.writeFlag_sp (f : Bool) : (s.writeFlag f).sp = s.sp := rfl
@[simp] theorem State.writeFlag_stack (f : Bool) : (s.writeFlag f).stack = s.stack := rfl
@[simp] theorem State.writeFlag_dt (f : Bool) : (s.writeFlag f).dt = s.dt := rfl
@[simp] theorem State.writeFlag_st (f : Bool) : (s.writeFlag f).st = s.st := rfl
@[simp] theorem State.writeFlag_mem (f : Bool) : (s.writeFlag f).mem = s.mem := rfl
@[simp] theorem State.writeFlag_fb (f : Bool) : (s.writeFlag f).fb = s.fb := rfl
@[simp] theorem State.writeFlag_key (f : Bool) : (s.writeFlag f).key = s.key := rfl
@[simp] theorem State.writeFlag_fault (f : Bool) : (s.writeFlag f).fault = s.fault := rfl
@[simp] theorem State.writeFlag_ir (f : Bool) : (s.writeFlag f).ir = s.ir := rfl
@[simp] theorem State.writeFlag_rndCount (f : Bool) : (s.writeFlag f).rndCount = s.rndCount := rfl

/-! `writeResultFlag` -/

@[simp] theorem State.writeResultFlag_v (x : Reg) (r : Byte) (f : Bool) : (s.writeResultFlag x r f).v = (s.v.set x r).set vf (flagByte f) := rfl
@[simp] theorem State.writeResultFlag_i (x : Reg) (r : Byte) (f : Bool) : (s.writeResultFlag x r f).i = s.i := rfl
@[simp] theorem State.writeResultFlag_pc (x : Reg) (r : Byte) (f : Bool) : (s.writeResultFlag x r f).pc = s.pc := rfl
@[simp] theorem State.writeResultFlag_sp (x : Reg) (r : Byte) (f : Bool) : (s.writeResultFlag x r f).sp = s.sp := rfl
@[simp] theorem State.writeResultFlag_stack (x : Reg) (r : Byte) (f : Bool) : (s.writeResultFlag x r f).stack = s.stack := rfl
@[simp] theorem State.writeResultFlag_dt (x : Reg) (r : Byte) (f : Bool) : (s.writeResultFlag x r f).dt = s.dt := rfl
@[simp] theorem State.writeResultFlag_st (x : Reg) (r : Byte) (f : Bool) : (s.writeResultFlag x r f).st = s.st := rfl
@[simp] theorem State.writeResultFlag_mem (x : Reg) (r : Byte) (f : Bool) : (s.writeResultFlag x r f).mem = s.mem := rfl
@[simp] theorem State.writeResultFlag_fb (x : Reg) (r : Byte) (f : Bool) : (s.writeResultFlag x r f).fb = s.fb := rfl
@[simp] theorem State.writeResultFlag_key (x : Reg) (r : Byte) (f : Bool) : (s.writeResultFlag x r f).key = s.key := rfl
@[simp] theorem State.writeResultFlag_fault (x : Reg) (r : Byte) (f : Bool) : (s.writeResultFlag x r f).fault = s.fault := rfl
@[simp] theorem State.writeResultFlag_ir (x : Reg) (r : Byte) (f : Bool) : (s.writeResultFlag x r f).ir = s.ir := rfl
@[simp] theorem State.writeResultFlag_rndCount (x : Reg) (r : Byte) (f : Bool) : (s.writeResultFlag x r f).rndCount = s.rndCount := rfl

/-! `skipIf`, `finishTick` -/

@[simp] theorem State.skipIf_v (c : Bool) : (s.skipIf c).v = s.v := by cases c <;> rfl
@[simp] theorem State.skipIf_i (c : Bool) : (s.skipIf c).i = s.i := by cases c <;> rfl
@[simp] theorem State.skipIf_sp (c : Bool) : (s.skipIf c).sp = s.sp := by cases c <;> rfl
@[simp] theorem State.skipIf_stack (c : Bool) : (s.skipIf c).stack = s.stack := by cases c <;> rfl
@[simp] theorem State.skipIf_dt (c : Bool) : (s.skipIf c).dt = s.dt := by cases c <;> rfl
@[simp] theorem State.skipIf_st (c : Bool) : (s.skipIf c).st = s.st := by cases c <;> rfl
@[simp] theorem State.skipIf_mem (c : Bool) : (s.skipIf c).mem = s.mem := by cases c <;> rfl
@[simp] theorem State.skipIf_fb (c : Bool) : (s.skipIf c).fb = s.fb := by cases c <;> rfl
@[simp] theorem State.skipIf_key (c : Bool) : (s.skipIf c).key = s.key := by cases c <;> rfl
@[simp] theorem State.skipIf_fault (c : Bool) : (s.skipIf c).fault = s.fault := by cases c <;> rfl
@[simp] theorem State.skipIf_ir (c : Bool) : (s.skipIf c).ir = s.ir := by cases c <;> rfl
@[simp] theorem State.skipIf_rndCount (c : Bool) : (s.skipIf c).rndCount = s.rndCount := by cases c <;> rfl
theorem State.skipIf_pc (c : Bool) : (s.skipIf c).pc = if c then s.pc + 2 else s.pc := by cases c <;> rfl
@[simp] theorem State.finishTick_v : s.finishTick.v = s.v := by unfold State.finishTick; split <;> rfl
@[simp] theorem State.finishTick_i : s.finishTick.i = s.i := by unfold State.finishTick; split <;> rfl
@[simp] theorem State.finishTick_pc : s.finishTick.pc = s.pc := by unfold State.finishTick; split <;> rfl
@[simp] theorem State.finishTick_sp : s.finishTick.sp = s.sp := by unfold State.finishTick; split <;> rfl
@[simp] theorem State.finishTick_stack : s.finishTick.stack = s.stack := by unfold State.finishTick; split <;> rfl
@[simp] theorem State.finishTick_mem : s.finishTick.mem = s.mem := by unfold State.finishTick; split <;> rfl
@[simp] theorem State.finishTick_fb : s.finishTick.fb = s.fb := by unfold State.finishTick; split <;> rfl
@[simp] theorem State.finishTick_key : s.finishTick.key = s.key := by unfold State.finishTick; split <;> rfl
@[simp] theorem State.finishTick_fault : s.finishTick.fault = s.fault := by unfold State.finishTick; split <;> rfl
@[simp] theorem State.finishTick_ir : s.finishTick.ir = s.ir := by unfold State.finishTick; split <;> rfl
@[simp] theorem State.finishTick_rndCount : s.finishTick.rndCount = s.rndCount := by unfold State.finishTick; split <;> rfl

/-! Two states with equal fields are equal. -/

theorem State.ext_fields {s t : State} (hv : s.v = t.v) (hi : s.i = t.i) (hpc : s.pc = t.pc) (hsp : s.sp = t.sp)
    (hstack : s.stack = t.stack) (hdt : s.dt = t.dt) (hst : s.st = t.st) (hmem : s.mem = t.mem) (hfb : s.fb = t.fb)
    (hkey : s.key = t.key) (hfault : s.fault = t.fault) (hir : s.ir = t.ir) (hrnd : s.rndCount = t.rndCount) : s = t := by
  cases s; cases t; simp_all

/-! Readers of fields an update does not touch follow from these: each reader depends on one field. -/

theorem State.readV_congr {s t : State} (h : t.v = s.v) (x : Reg) : t.readV x = s.readV x := by simp [State.readV, h]

theorem State.readKey_congr {s t : State} (h : t.key = s.key) (k : Reg) : t.readKey k = s.readKey k := by
  simp [State.readKey, h]

theorem State.readByte_congr {s t : State} (h : t.mem = s.mem) (a : Nat) : t.readByte a = s.readByte a := by
  simp [State.readByte, h]

theorem State.halted_congr {s t : State} (h : t.fault = s.fault) : t.halted = s.halted := by simp [State.halted, h]

theorem State.halted_iff (s : State) : s.halted = true ↔ s.fault ≠ .none := by simp [State.halted]

theorem State.halted_eq_false (s : State) : s.halted = false ↔ s.fault = .none := by simp [State.halted]

end Sys2Proof.Machine
end

