-- ==== Sys2Proof/Laws/Display.lean ====
section
/-! SUPPORT. Pixels: what a read gives after a write, and what drawing one pixel can do. -/

namespace Sys2Proof.Machine

open Sys2Proof

variable (fb : Framebuffer)

/-- A pixel outside the display reads off (R19). -/
theorem pixel_outside {r c : Nat} (h : ¬(r < Config.displayH ∧ c < Config.displayW)) : fb.pixel r c = false := dif_neg h

@[simp] theorem pixel_blank (r c : Nat) : blankFramebuffer.pixel r c = false := by
  unfold Framebuffer.pixel
  split
  · simp [blankFramebuffer]
  · rfl

/-- A read after a write of the same pixel gives the value written. -/
theorem pixel_setPixel_same {r c : Nat} (on : Bool) (hr : r < Config.displayH) (hc : c < Config.displayW) :
    (fb.setPixel r c on).pixel r c = on := by
  simp [Framebuffer.pixel, Framebuffer.setPixel, hr, hc]

/-- A write leaves every other pixel alone. -/
theorem pixel_setPixel_ne {r c r' c' : Nat} (on : Bool) (h : ¬(r' = r ∧ c' = c)) :
    (fb.setPixel r c on).pixel r' c' = fb.pixel r' c' := by
  unfold Framebuffer.pixel Framebuffer.setPixel
  split
  · rename_i hin
    split
    · by_cases hr : r = r'
      · subst hr
        have hc : c ≠ c' := fun e => h ⟨rfl, e.symm⟩
        simp [Vector.getElem_setIfInBounds_ne, hc]
      · simp [Vector.getElem_set_ne, hr]
    · rfl
  · rfl

/-- The pixel read after drawing one pixel: toggled where it was drawn, as before elsewhere (R131). -/
theorem drawPixel_pixel (r c r' c' : Nat) (on : Bool) (d : Drawing) :
    (drawPixel r c on d).1.pixel r' c' =
      (d.1.pixel r' c' ^^ (decide (r < Config.displayH ∧ c < Config.displayW ∧ on = true ∧ r' = r ∧ c' = c))) := by
  unfold drawPixel
  split
  · rename_i h
    by_cases hp : r' = r ∧ c' = c
    · obtain ⟨rfl, rfl⟩ := hp
      simp [pixel_setPixel_same, h]
    · rw [pixel_setPixel_ne _ _ hp]
      have : ¬(r < Config.displayH ∧ c < Config.displayW ∧ on = true ∧ r' = r ∧ c' = c) := fun e => hp ⟨e.2.2.2.1, e.2.2.2.2⟩
      simp [this]
  · rename_i h
    have : ¬(r < Config.displayH ∧ c < Config.displayW ∧ on = true ∧ r' = r ∧ c' = c) := fun e => h ⟨e.1, e.2.1, e.2.2.1⟩
    simp [this]

/-- The collision after drawing one pixel: an earlier one, or this pixel on over on (R131). -/
theorem drawPixel_hit (r c : Nat) (on : Bool) (d : Drawing) :
    (drawPixel r c on d).2 = (d.2 || (on && d.1.pixel r c)) := by
  unfold drawPixel
  split
  · rename_i h; simp [h.2.2]
  · rename_i h
    cases on
    · simp
    · have : ¬(r < Config.displayH ∧ c < Config.displayW) := fun e => h ⟨e.1, e.2, rfl⟩
      simp [pixel_outside _ this]

end Sys2Proof.Machine
end

