-- ==== Sys2Proof/Laws/Memory.lean ====
section
/-! SUPPORT. The laws of memory: read after write, the canonical form is kept, and what each checked access can do. -/

namespace Sys2Proof.Machine

open Sys2Proof

variable (m : Memory)

/-! ## One cell -/

theorem Memory.get_erase_ne {a b : Nat} (h : b ≠ a) : (m.erase a).get b = m.get b := by
  induction m with
  | nil => rfl
  | cons c rest ih =>
    by_cases hc : c.1 = a
    · have hb : c.1 ≠ b := fun e => h (e.symm.trans hc)
      simp_all [Memory.erase, Memory.get]
    · simp_all [Memory.erase, Memory.get]

theorem Memory.get_erase_same (a : Nat) : (m.erase a).get a = resetByte a := by
  induction m with
  | nil => rfl
  | cons c rest ih =>
    by_cases hc : c.1 = a <;> simp_all [Memory.erase, Memory.get]

theorem Memory.get_insert_ne {a b : Nat} (v : Byte) (h : b ≠ a) : (m.insert a v).get b = m.get b := by
  induction m with
  | nil => simp [Memory.insert, Memory.get, h.symm]
  | cons c rest ih =>
    unfold Memory.insert
    split <;> simp_all [Memory.get, h.symm]

theorem Memory.get_insert_same (a : Nat) (v : Byte) (h : ∀ c ∈ m, c.1 ≠ a) : (m.insert a v).get a = v := by
  induction m with
  | nil => simp [Memory.insert, Memory.get]
  | cons c rest ih =>
    unfold Memory.insert
    split <;> simp_all [Memory.get]

theorem Memory.erase_addr_ne (a : Nat) : ∀ c ∈ m.erase a, c.1 ≠ a := by
  intro c hc
  simpa using (List.mem_filter.mp hc).2

/-- A read after a write to the same cell gives the value written (R43). -/
theorem Memory.get_set_same (a : Nat) (v : Byte) : (m.set a v).get a = v := by
  unfold Memory.set
  split
  · rename_i h; rw [Memory.get_erase_same, h]
  · exact Memory.get_insert_same _ _ _ (m.erase_addr_ne a)

/-- A write leaves every other cell alone (R43). -/
theorem Memory.get_set_ne {a b : Nat} (v : Byte) (h : b ≠ a) : (m.set a v).get b = m.get b := by
  unfold Memory.set
  split
  · exact m.get_erase_ne h
  · rw [Memory.get_insert_ne _ _ h, m.get_erase_ne h]

/-! ## The canonical form -/

theorem Memory.wf_cons (c : Host.Cell) (rest : Memory) :
    Memory.wf (c :: rest) = true ↔
      (c.1 < Config.memSize ∧ c.2 ≠ resetByte c.1 ∧ ∀ d ∈ rest, c.1 < d.1) ∧ Memory.wf rest = true := by
  simp [Memory.wf, and_assoc]

theorem Memory.mem_insert {c d : Host.Cell} {m : Memory} (h : d ∈ m.insert c.1 c.2) : d = c ∨ d ∈ m := by
  induction m with
  | nil => simpa [Memory.insert] using h
  | cons e rest ih =>
    unfold Memory.insert at h
    split at h
    · rcases List.mem_cons.mp h with rfl | h
      · simp
      · rcases ih h with rfl | h <;> simp_all
    · simpa using h

theorem Memory.erase_wf (a : Nat) (h : m.wf = true) : (m.erase a).wf = true := by
  induction m with
  | nil => rfl
  | cons c rest ih =>
    rw [Memory.wf_cons] at h
    by_cases hc : c.1 = a
    · simpa [Memory.erase, hc] using ih h.2
    · have he : Memory.erase (c :: rest) a = c :: Memory.erase rest a := by simp [Memory.erase, hc]
      rw [he, Memory.wf_cons]
      exact ⟨⟨h.1.1, h.1.2.1, fun d hd => h.1.2.2 d (List.mem_of_mem_filter hd)⟩, ih h.2⟩

theorem Memory.insert_wf {a : Nat} {v : Byte} (h : m.wf = true) (ha : a < Config.memSize) (hv : v ≠ resetByte a)
    (hne : ∀ c ∈ m, c.1 ≠ a) : (m.insert a v).wf = true := by
  induction m with
  | nil => simpa [Memory.insert, Memory.wf] using ⟨ha, hv⟩
  | cons c rest ih =>
    have hw := (Memory.wf_cons c rest).mp h
    unfold Memory.insert
    split
    · rename_i hlt
      rw [Memory.wf_cons]
      refine ⟨⟨hw.1.1, hw.1.2.1, fun d hd => ?_⟩, ih hw.2 fun d hd => hne d (List.mem_cons_of_mem _ hd)⟩
      rcases Memory.mem_insert (c := (a, v)) hd with rfl | hd
      · exact hlt
      · exact hw.1.2.2 d hd
    · rename_i hlt
      have hca : a < c.1 := by have := hne c (by simp); omega
      rw [Memory.wf_cons]
      refine ⟨⟨ha, hv, fun d hd => ?_⟩, h⟩
      rcases List.mem_cons.mp hd with rfl | hd
      · exact hca
      · exact hca.trans (hw.1.2.2 d hd)

/-- A write to a cell that exists keeps the canonical form. -/
theorem Memory.set_wf {a : Nat} (v : Byte) (h : m.wf = true) (ha : a < Config.memSize) : (m.set a v).wf = true := by
  unfold Memory.set
  split
  · exact m.erase_wf a h
  · rename_i hv
    exact Memory.insert_wf _ (m.erase_wf a h) ha hv (m.erase_addr_ne a)

/-! ## Blocks -/

@[simp] theorem Memory.setBlock_nil (a : Nat) : m.setBlock a [] = m := rfl

@[simp] theorem Memory.setBlock_cons (a : Nat) (b : Byte) (bs : List Byte) :
    m.setBlock a (b :: bs) = (m.set a b).setBlock (a + 1) bs := rfl

/-- A block write leaves every cell outside the block alone. -/
theorem Memory.get_setBlock_outside (bs : List Byte) (a b : Nat) (h : b < a ∨ a + bs.length ≤ b) :
    (m.setBlock a bs).get b = m.get b := by
  induction bs generalizing m a with
  | nil => rfl
  | cons v rest ih =>
    rw [Memory.setBlock_cons, ih _ _ (by simp at h; omega), Memory.get_set_ne _ _ (by simp at h; omega)]

/-- A block write puts byte `k` at address `a + k`. -/
theorem Memory.get_setBlock_inside (bs : List Byte) (a k : Nat) (h : k < bs.length) :
    (m.setBlock a bs).get (a + k) = bs[k] := by
  induction bs generalizing m a k with
  | nil => simp at h
  | cons v rest ih =>
    cases k with
    | zero => rw [Memory.setBlock_cons, Memory.get_setBlock_outside _ _ _ _ (by omega)]; simp [Memory.get_set_same]
    | succ k =>
      have := ih (m.set a v) (a + 1) k (by simpa using h)
      rw [Memory.setBlock_cons]
      simpa [Nat.add_assoc, Nat.add_comm 1 k] using this

theorem Memory.setBlock_wf (bs : List Byte) (a : Nat) (h : m.wf = true) (ha : a + bs.length ≤ Config.memSize) :
    (m.setBlock a bs).wf = true := by
  induction bs generalizing m a with
  | nil => exact h
  | cons v rest ih =>
    simp only [List.length_cons] at ha
    exact ih _ _ (m.set_wf v h (by omega)) (by omega)

/-! ## Checked accesses -/

theorem rangeOk_iff (a n : Nat) : rangeOk a n = true ↔ n = 0 ∨ a + n - 1 ≤ 0xFFF := by simp [rangeOk]

theorem rangeOk_eq_false (a n : Nat) : rangeOk a n = false ↔ n ≠ 0 ∧ 0xFFF < a + n - 1 := by
  rw [← Bool.not_eq_true, rangeOk_iff]; omega

/-- All a one-byte read can do (R44). -/
theorem memRead1_eq (a : Nat) : memRead1 m a = if a ≤ 0xFFF then some (m.get a) else none := by
  simp [memRead1, rangeOk]

/-- All a fetch-width read can do (R44). -/
theorem memRead2_eq (a : Nat) : memRead2 m a = if a ≤ 0xFFE then some (m.get a ++ m.get (a + 1)) else none := by
  have h : (rangeOk a 2 = true) ↔ a ≤ 0xFFE := by rw [rangeOk_iff]; omega
  simp [memRead2, h]

/-- All a one-byte write can do (R45). -/
theorem memWrite1_eq (a : Nat) (v : Byte) : memWrite1 m a v = if a ≤ 0xFFF then some (m.set a v) else none := by
  simp [memWrite1, rangeOk]

/-- A checked block read that succeeds was in range and gives the cells in order (R49). -/
theorem readBlock_eq_some {m : Memory} {a n : Nat} {bs : List Byte} :
    readBlock m a n = some bs ↔ rangeOk a n = true ∧ bs = (List.range n).map fun k => m.get (a + k) := by
  unfold readBlock
  split
  · rename_i h; simp [h, eq_comm]
  · rename_i h; simp [h]

theorem readBlock_eq_none {m : Memory} {a n : Nat} : readBlock m a n = none ↔ rangeOk a n = false := by
  unfold readBlock
  split
  · rename_i h; simp [h]
  · rename_i h; simp [h]

/-- A checked block write that succeeds was in range and is the block write (R49). -/
theorem writeBlock_eq_some {m m' : Memory} {a : Nat} {bs : List Byte} :
    writeBlock m a bs = some m' ↔ rangeOk a bs.length = true ∧ m' = m.setBlock a bs := by
  unfold writeBlock
  split
  · rename_i h; simp [h, eq_comm]
  · rename_i h; simp [h]

theorem writeBlock_eq_none {m : Memory} {a : Nat} {bs : List Byte} :
    writeBlock m a bs = none ↔ rangeOk a bs.length = false := by
  unfold writeBlock
  split
  · rename_i h; simp [h]
  · rename_i h; simp [h]

theorem rangeOk_memSize {a n : Nat} (h : rangeOk a n = true) (hn : n ≠ 0) : a + n ≤ Config.memSize := by
  rw [rangeOk_iff] at h
  show a + n ≤ 4096
  omega

/-- A checked one-byte write keeps the canonical form. -/
theorem memWrite1_wf {m m' : Memory} {a : Nat} {v : Byte} (h : m.wf = true) (hw : memWrite1 m a v = some m') :
    m'.wf = true := by
  rw [memWrite1_eq] at hw
  split at hw
  · obtain rfl := Option.some.inj hw
    exact m.set_wf v h (by show a < 4096; omega)
  · cases hw

/-- A checked block write keeps the canonical form. -/
theorem writeBlock_wf {m m' : Memory} {a : Nat} {bs : List Byte} (h : m.wf = true) (hw : writeBlock m a bs = some m') :
    m'.wf = true := by
  obtain ⟨hr, rfl⟩ := writeBlock_eq_some.mp hw
  by_cases hb : bs = []
  · subst hb; exact h
  · exact m.setBlock_wf bs a h (rangeOk_memSize hr (by simpa using hb))

end Sys2Proof.Machine
end

