-- ==== Sys2Proof/Laws/Registers.lean ====
section
/-! SUPPORT. Registers, flags, timers and keys: what each read gives after each write. -/

namespace Sys2Proof.Machine

open Sys2Proof

variable (s : State)

/-! ## General registers -/

@[simp] theorem readV_writeV_same (x : Reg) (b : Byte) : (s.writeV x b).readV x = b := by
  simp [State.readV]

theorem readV_writeV_ne {x y : Reg} (b : Byte) (h : y ≠ x) : (s.writeV x b).readV y = s.readV y := by
  have : x.val ≠ y.val := fun e => h (Fin.ext e.symm)
  simp [State.readV, Vector.getElem_set_ne, this]

@[simp] theorem readV_writeFlag_vf (f : Bool) : (s.writeFlag f).readV vf = flagByte f := readV_writeV_same ..

theorem readV_writeFlag_ne {y : Reg} (f : Bool) (h : y ≠ vf) : (s.writeFlag f).readV y = s.readV y := readV_writeV_ne _ _ h

/-- VF ends as the flag whichever register the result goes to (R11). -/
@[simp] theorem readV_writeResultFlag_vf (x : Reg) (r : Byte) (f : Bool) :
    (s.writeResultFlag x r f).readV vf = flagByte f := readV_writeV_same ..

theorem readV_writeResultFlag_dest {x : Reg} (r : Byte) (f : Bool) (h : x ≠ vf) :
    (s.writeResultFlag x r f).readV x = r := by
  unfold State.writeResultFlag
  rw [readV_writeFlag_ne _ _ h, readV_writeV_same]

theorem readV_writeResultFlag_ne {x y : Reg} (r : Byte) (f : Bool) (hx : y ≠ x) (hf : y ≠ vf) :
    (s.writeResultFlag x r f).readV y = s.readV y := by
  unfold State.writeResultFlag
  rw [readV_writeFlag_ne _ _ hf, readV_writeV_ne _ _ hx]

/-! ## Register blocks -/

/-- Register `j` after a block load: its byte of the block, or its old value outside the block (R125). -/
theorem loadRegs_getElem (bs : List Byte) (v : Vector Byte 16) (k j : Nat) (hj : j < 16) :
    (loadRegs v k bs)[j] = if h : k ≤ j ∧ j - k < bs.length then bs[j - k] else v[j] := by
  induction bs generalizing v k with
  | nil => simp [loadRegs]
  | cons b rest ih =>
    rw [loadRegs, ih]
    by_cases h1 : k + 1 ≤ j ∧ j - (k + 1) < rest.length
    · have h2 : k ≤ j ∧ j - k < (b :: rest).length := ⟨by omega, by simp only [List.length_cons]; omega⟩
      have h3 : j - k = (j - (k + 1)) + 1 := by omega
      rw [dif_pos h1, dif_pos h2]
      simp only [h3, List.getElem_cons_succ]
    · rw [dif_neg h1]
      by_cases h2 : j = k
      · subst h2; simp
      · have h3 : ¬(k ≤ j ∧ j - k < (b :: rest).length) := by simp only [List.length_cons]; omega
        rw [dif_neg h3, Vector.getElem_setIfInBounds_ne (by omega) (by omega)]

@[simp] theorem regsUpTo_length (x : Reg) : (s.regsUpTo x).length = x.val + 1 := by
  have := x.isLt
  simp [State.regsUpTo]

theorem regsUpTo_getElem (x : Reg) (k : Nat) (h : k < (s.regsUpTo x).length) (hk : k < 16) :
    (s.regsUpTo x)[k] = s.readV ⟨k, hk⟩ := by
  simp [State.regsUpTo]

/-! ## Flags and arithmetic -/

theorem flagByte_eq (f : Bool) : flagByte f = if f then 1 else 0 := rfl

@[simp] theorem flagByte_true : flagByte true = 1 := rfl

@[simp] theorem flagByte_false : flagByte false = 0 := rfl

/-- A timer's count down is natural subtraction: it saturates at zero (R17). -/
theorem countDown_toNat (b : Byte) : (countDown b).toNat = b.toNat - 1 := by
  unfold countDown
  split
  · rename_i h; subst h; rfl
  · rename_i h
    have hb : b.toNat ≠ 0 := fun e => h (BitVec.eq_of_toNat_eq (by simpa using e))
    have := b.isLt
    rw [BitVec.toNat_sub, show (1 : Byte).toNat = 1 from rfl]
    omega

@[simp] theorem bcdDigits_length (b : Byte) : (bcdDigits b).length = 3 := rfl

@[simp] theorem addrTarget_toNat (nnn : Addr) : (addrTarget nnn).toNat = nnn.toNat := by
  have := nnn.isLt
  simp only [addrTarget, BitVec.toNat_setWidth]
  omega

@[simp] theorem zextByte_toNat (b : Byte) : (zextByte b).toNat = b.toNat := by
  have := b.isLt
  simp only [zextByte, BitVec.toNat_setWidth]
  omega

/-! ## Keys -/

@[simp] theorem readKey_writeKey_same (k : Reg) (p : Bool) : (s.writeKey k p).readKey k = p := by
  simp [State.readKey]

theorem readKey_writeKey_ne {k j : Reg} (p : Bool) (h : j ≠ k) : (s.writeKey k p).readKey j = s.readKey j := by
  have : k.val ≠ j.val := fun e => h (Fin.ext e.symm)
  simp [State.readKey, Vector.getElem_set_ne, this]

theorem keySelect_val (b : Byte) : (keySelect b).val = b.toNat % 16 := by
  simp [keySelect]

/-- No key is pressed (R142). -/
theorem lowestKey_eq_none : s.lowestKey = none ↔ ∀ k, s.readKey k = false := by
  simp [State.lowestKey]

theorem lowestKey_pressed {k : Reg} (h : s.lowestKey = some k) : s.readKey k = true := List.find?_some h

end Sys2Proof.Machine
end

