-- ==== Sys2Proof/Laws/Frame.lean ====
section
/-! SUPPORT. Frames: how to give one field by field, and the frame of each named update. -/

namespace Sys2Proof.Machine

open Sys2Proof

variable (s : State)

/-- A frame, part by part. -/
theorem frame_of_parts {s t : State} {c : Set Part} (hv : ∀ x, Part.v x ∉ c → t.readV x = s.readV x)
    (hi : Part.i ∉ c → t.i = s.i) (hpc : Part.pc ∉ c → t.pc = s.pc) (hsp : Part.sp ∉ c → t.sp = s.sp)
    (hstack : ∀ k : Fin 16, Part.stack k ∉ c → t.stack[k] = s.stack[k]) (hdt : Part.dt ∉ c → t.dt = s.dt)
    (hst : Part.st ∉ c → t.st = s.st) (hmem : ∀ a, Part.mem a ∉ c → t.readByte a = s.readByte a)
    (hfb : ∀ r k, Part.pixel r k ∉ c → t.fb.pixel r k = s.fb.pixel r k) (hkey : ∀ k, Part.key k ∉ c → t.readKey k = s.readKey k)
    (hfault : Part.fault ∉ c → t.fault = s.fault) (hir : Part.ir ∉ c → t.ir = s.ir)
    (hrnd : Part.rnd ∉ c → t.rndCount = s.rndCount) : FrameExcept s t c := by
  intro p hp
  cases p with
  | v x => exact hv x hp
  | i => exact hi hp
  | pc => exact hpc hp
  | sp => exact hsp hp
  | stack k => exact hstack k hp
  | dt => exact hdt hp
  | st => exact hst hp
  | mem a => exact hmem a hp
  | pixel r k => exact hfb r k hp
  | key k => exact hkey k hp
  | fault => exact hfault hp
  | ir => exact hir hp
  | rnd => exact hrnd hp

theorem FrameExcept.mono {s t : State} {c d : Set Part} (h : FrameExcept s t c) (hcd : c ⊆ d) : FrameExcept s t d :=
  fun p hp => h p fun hc => hp (hcd hc)

theorem frame_writeV (x : Reg) (b : Byte) : FrameExcept s (s.writeV x b) {.v x} := by
  apply frame_of_parts <;> intros <;> first | rfl | simp_all [readV_writeV_ne]

theorem frame_writeResultFlag (x : Reg) (r : Byte) (f : Bool) : FrameExcept s (s.writeResultFlag x r f) {.v x, .v vf} := by
  apply frame_of_parts <;> intros <;> first | rfl | simp_all [readV_writeResultFlag_ne]

theorem frame_writePc (w : Word) : FrameExcept s (s.writePc w) {.pc} := by
  apply frame_of_parts <;> intros <;> first | rfl | simp_all

theorem frame_skipIf (c : Bool) : FrameExcept s (s.skipIf c) {.pc} := by
  cases c
  · intro p _; cases p <;> rfl
  · exact frame_writePc s _

theorem frame_writeI (w : Word) : FrameExcept s (s.writeI w) {.i} := by
  apply frame_of_parts <;> intros <;> first | rfl | simp_all

theorem frame_writeDt (b : Byte) : FrameExcept s (s.writeDt b) {.dt} := by
  apply frame_of_parts <;> intros <;> first | rfl | simp_all

theorem frame_writeSt (b : Byte) : FrameExcept s (s.writeSt b) {.st} := by
  apply frame_of_parts <;> intros <;> first | rfl | simp_all

theorem frame_writeKey (k : Reg) (p : Bool) : FrameExcept s (s.writeKey k p) {.key k} := by
  apply frame_of_parts <;> intros <;> first | rfl | simp_all [readKey_writeKey_ne]

/-! ## Bytes of memory through the state -/

theorem readByte_eq (a : Nat) : s.readByte a = if a ≤ 0xFFF then some (s.mem.get a) else none := memRead1_eq ..

/-- Byte `k` of a block just written reads back. -/
theorem readByte_setBlock_inside (bs : List Byte) (a k : Nat) (h : k < bs.length) (hr : a + k ≤ 0xFFF) :
    (s.writeMem (s.mem.setBlock a bs)).readByte (a + k) = some bs[k] := by
  rw [readByte_eq, if_pos hr, State.writeMem_mem, Memory.get_setBlock_inside _ _ _ _ h]

/-- Bytes outside a block just written read as before. -/
theorem readByte_setBlock_outside (bs : List Byte) (a b : Nat) (h : b < a ∨ a + bs.length ≤ b) :
    (s.writeMem (s.mem.setBlock a bs)).readByte b = s.readByte b := by
  simp only [readByte_eq, State.writeMem_mem, Memory.get_setBlock_outside _ _ _ _ h]

end Sys2Proof.Machine
end

