-- ==== Sys2Proof/Laws/PerInstr.lean ====
section
/-! SUPPORT. Per instruction, about its syntax: the word the encoder gives it selects its own row of the opcode map (R66). -/

namespace Sys2Proof.Laws.EncodeSelectsRow

open Sys2Proof

/-- The encoded word has every fixed bit its row of R66 prescribes. -/
def Statement (i : Instr) : Prop := i.wellFormed = true → i.row.selects (encode i) = true

/-! ## The masks of R66 as arithmetic -/

theorem and_F000_toNat (w : Word) : (w &&& 0xF000#16).toNat = w.toNat / 4096 * 4096 := by
  have h : w &&& 0xF000#16 = (w >>> 12) <<< 12 := by
    ext i hi
    interval_cases i <;> simp [BitVec.getLsbD_eq_getElem]
  have := w.isLt
  rw [h]
  simp [Nat.shiftLeft_eq, Nat.shiftRight_eq_div_pow]; omega

theorem and_low_toNat (w : Word) (k : Nat) (hk : k ≤ 16) : (w &&& BitVec.ofNat 16 (2 ^ k - 1)).toNat = w.toNat % 2 ^ k := by
  have h1 : 2 ^ k ≤ 2 ^ 16 := Nat.pow_le_pow_right (by decide) hk
  have h2 : 0 < 2 ^ k := Nat.two_pow_pos k
  rw [BitVec.toNat_and, BitVec.toNat_ofNat, Nat.mod_eq_of_lt (by omega : 2 ^ k - 1 < 2 ^ 16), Nat.and_two_pow_sub_one_eq_mod]

theorem and_F00F_toNat (w : Word) : (w &&& 0xF00F#16).toNat = w.toNat / 4096 * 4096 + w.toNat % 16 := by
  have h : w &&& 0xF00F#16 = (w &&& 0xF000#16) + (w &&& 0xF#16) := by
    rw [BitVec.add_eq_or_of_and_eq_zero] <;> (ext i hi; interval_cases i <;> simp)
  have hl : (w &&& 0xF#16).toNat = w.toNat % 16 := and_low_toNat w 4 (by decide)
  have := w.isLt
  rw [h, BitVec.toNat_add, and_F000_toNat, hl]; omega

theorem and_F0FF_toNat (w : Word) : (w &&& 0xF0FF#16).toNat = w.toNat / 4096 * 4096 + w.toNat % 256 := by
  have h : w &&& 0xF0FF#16 = (w &&& 0xF000#16) + (w &&& 0xFF#16) := by
    rw [BitVec.add_eq_or_of_and_eq_zero] <;> (ext i hi; interval_cases i <;> simp)
  have hl : (w &&& 0xFF#16).toNat = w.toNat % 256 := and_low_toNat w 8 (by decide)
  have := w.isLt
  rw [h, BitVec.toNat_add, and_F000_toNat, hl]; omega

/-! ## The rows of each format -/

theorem selects_nnn (f : BitVec 4) (nnn : Addr) (p : Word) (hp : p.toNat = f.toNat * 4096) :
    OpcodeRow.selects ⟨0xF000#16, p⟩ (encodeNnn f nnn) = true := by
  have := nnn.isLt
  simp only [OpcodeRow.selects, beq_iff_eq]
  apply BitVec.eq_of_toNat_eq
  rw [and_F000_toNat, encodeNnn_toNat]; omega

theorem selects_xkk (f : BitVec 4) (x : Reg) (kk : Byte) (p : Word) (hp : p.toNat = f.toNat * 4096) :
    OpcodeRow.selects ⟨0xF000#16, p⟩ (encodeXkk f x kk) = true := by
  have := kk.isLt; have := x.isLt
  simp only [OpcodeRow.selects, beq_iff_eq]
  apply BitVec.eq_of_toNat_eq
  rw [and_F000_toNat, encodeXkk_toNat]; omega

theorem selects_xyn (f : BitVec 4) (x y : Reg) (n : BitVec 4) (p : Word) (hp : p.toNat = f.toNat * 4096) :
    OpcodeRow.selects ⟨0xF000#16, p⟩ (encodeXyn f x y n) = true := by
  have := n.isLt; have := x.isLt; have := y.isLt
  simp only [OpcodeRow.selects, beq_iff_eq]
  apply BitVec.eq_of_toNat_eq
  rw [and_F000_toNat, encodeXyn_toNat]; omega

theorem selects_xyn_keyed (f : BitVec 4) (x y : Reg) (n : BitVec 4) (p : Word) (hp : p.toNat = f.toNat * 4096 + n.toNat) :
    OpcodeRow.selects ⟨0xF00F#16, p⟩ (encodeXyn f x y n) = true := by
  have := n.isLt; have := x.isLt; have := y.isLt
  simp only [OpcodeRow.selects, beq_iff_eq]
  apply BitVec.eq_of_toNat_eq
  rw [and_F00F_toNat, encodeXyn_toNat]; omega

theorem selects_xss (f : BitVec 4) (x : Reg) (ss : Byte) (p : Word) (hp : p.toNat = f.toNat * 4096 + ss.toNat) :
    OpcodeRow.selects ⟨0xF0FF#16, p⟩ (encodeXkk f x ss) = true := by
  have := ss.isLt; have := x.isLt
  simp only [OpcodeRow.selects, beq_iff_eq]
  apply BitVec.eq_of_toNat_eq
  rw [and_F0FF_toNat, encodeXkk_toNat]; omega

/-! ## One lemma per constructor -/

theorem cls : Statement .cls := fun _ => by decide
theorem ret : Statement .ret := fun _ => by decide
theorem jp (nnn : Addr) : Statement (.jp nnn) := fun _ => selects_nnn _ _ _ rfl
theorem call (nnn : Addr) : Statement (.call nnn) := fun _ => selects_nnn _ _ _ rfl
theorem seImm (x : Reg) (kk : Byte) : Statement (.seImm x kk) := fun _ => selects_xkk _ _ _ _ rfl
theorem sneImm (x : Reg) (kk : Byte) : Statement (.sneImm x kk) := fun _ => selects_xkk _ _ _ _ rfl
theorem seReg (x y : Reg) : Statement (.seReg x y) := fun _ => selects_xyn _ _ _ _ _ rfl
theorem ldImm (x : Reg) (kk : Byte) : Statement (.ldImm x kk) := fun _ => selects_xkk _ _ _ _ rfl
theorem addImm (x : Reg) (kk : Byte) : Statement (.addImm x kk) := fun _ => selects_xkk _ _ _ _ rfl
theorem ldReg (x y : Reg) : Statement (.ldReg x y) := fun _ => selects_xyn_keyed _ _ _ _ _ rfl
theorem orReg (x y : Reg) : Statement (.orReg x y) := fun _ => selects_xyn_keyed _ _ _ _ _ rfl
theorem andReg (x y : Reg) : Statement (.andReg x y) := fun _ => selects_xyn_keyed _ _ _ _ _ rfl
theorem xorReg (x y : Reg) : Statement (.xorReg x y) := fun _ => selects_xyn_keyed _ _ _ _ _ rfl
theorem addReg (x y : Reg) : Statement (.addReg x y) := fun _ => selects_xyn_keyed _ _ _ _ _ rfl
theorem sub (x y : Reg) : Statement (.sub x y) := fun _ => selects_xyn_keyed _ _ _ _ _ rfl
theorem shr (x y : Reg) : Statement (.shr x y) := fun _ => selects_xyn_keyed _ _ _ _ _ rfl
theorem subn (x y : Reg) : Statement (.subn x y) := fun _ => selects_xyn_keyed _ _ _ _ _ rfl
theorem shl (x y : Reg) : Statement (.shl x y) := fun _ => selects_xyn_keyed _ _ _ _ _ rfl
theorem sneReg (x y : Reg) : Statement (.sneReg x y) := fun _ => selects_xyn _ _ _ _ _ rfl
theorem ldI (nnn : Addr) : Statement (.ldI nnn) := fun _ => selects_nnn _ _ _ rfl
theorem jpV0 (nnn : Addr) : Statement (.jpV0 nnn) := fun _ => selects_nnn _ _ _ rfl
theorem rnd (x : Reg) (kk : Byte) : Statement (.rnd x kk) := fun _ => selects_xkk _ _ _ _ rfl
theorem drw (x y : Reg) (n : Nat) : Statement (.drw x y n) := fun _ => selects_xyn _ _ _ _ _ rfl
theorem skp (x : Reg) : Statement (.skp x) := fun _ => selects_xss _ _ _ _ rfl
theorem sknp (x : Reg) : Statement (.sknp x) := fun _ => selects_xss _ _ _ _ rfl
theorem ldVxDt (x : Reg) : Statement (.ldVxDt x) := fun _ => selects_xss _ _ _ _ rfl
theorem ldVxK (x : Reg) : Statement (.ldVxK x) := fun _ => selects_xss _ _ _ _ rfl
theorem ldDtVx (x : Reg) : Statement (.ldDtVx x) := fun _ => selects_xss _ _ _ _ rfl
theorem ldStVx (x : Reg) : Statement (.ldStVx x) := fun _ => selects_xss _ _ _ _ rfl
theorem addI (x : Reg) : Statement (.addI x) := fun _ => selects_xss _ _ _ _ rfl
theorem ldF (x : Reg) : Statement (.ldF x) := fun _ => selects_xss _ _ _ _ rfl
theorem ldB (x : Reg) : Statement (.ldB x) := fun _ => selects_xss _ _ _ _ rfl
theorem dump (x : Reg) : Statement (.dump x) := fun _ => selects_xss _ _ _ _ rfl
theorem load (x : Reg) : Statement (.load x) := fun _ => selects_xss _ _ _ _ rfl

end Sys2Proof.Laws.EncodeSelectsRow
end

