-- ==== Sys2Proof/Laws/Stack.lean ====
section
/-! SUPPORT. Everything a push and a pop can do (R16). -/

namespace Sys2Proof.Machine

open Sys2Proof

variable {s t : State}

theorem push_eq_none {w : Word} : s.push w = none ↔ s.sp.val = 16 := by
  have hlt : s.sp.val < 17 := s.sp.isLt
  unfold State.push
  split
  · rename_i h
    have h16 : s.sp.val < 16 := h
    simp only [reduceCtorEq, false_iff]; omega
  · rename_i h
    have h16 : ¬s.sp.val < 16 := h
    simp only [true_iff]; omega

/-- A push that succeeds writes entry `sp`, counts `sp` up, and changes nothing else. -/
theorem push_eq_some {w : Word} (h : s.push w = some t) :
    ∃ hs : s.sp.val < 16, t.sp.val = s.sp.val + 1 ∧ t = { s with stack := s.stack.set s.sp.val w hs, sp := t.sp } := by
  unfold State.push at h
  split at h
  · rename_i hs
    obtain rfl := Option.some.inj h
    exact ⟨hs, rfl, rfl⟩
  · cases h

theorem pop_eq_none : s.pop = none ↔ s.sp.val = 0 := by
  unfold State.pop
  split <;> simp_all

/-- A pop that succeeds reads entry `sp - 1`, counts `sp` down, and changes nothing else, the entry included (R15). -/
theorem pop_eq_some {w : Word} (h : s.pop = some (w, t)) :
    ∃ hk : s.sp.val - 1 < 16, s.sp.val ≠ 0 ∧ w = s.stack[s.sp.val - 1] ∧ t.sp.val = s.sp.val - 1 ∧ t = { s with sp := t.sp } := by
  unfold State.pop at h
  split at h
  · cases h
  · rename_i h0
    obtain ⟨rfl, rfl⟩ := Prod.mk.inj (Option.some.inj h)
    have hlt : s.sp.val < 17 := s.sp.isLt
    exact ⟨Nat.lt_of_le_of_lt (Nat.sub_le_sub_right (Nat.le_of_lt_succ hlt) 1) (by decide), h0, rfl, rfl, rfl⟩

/-- The push on a stack with a free entry, as a state. -/
theorem push_of_lt (w : Word) (h : s.sp.val < 16) :
    s.push w = some { s with stack := s.stack.set s.sp.val w h, sp := ⟨s.sp.val + 1, Nat.succ_lt_succ h⟩ } := dif_pos h

/-- The pop that leaves `k` entries in use, as a state. -/
theorem pop_of_succ (k : Fin 16) (h : s.sp.val = k.val + 1) :
    s.pop = some (s.stack[k], { s with sp := ⟨k.val, Nat.lt_succ_of_lt k.isLt⟩ }) := by
  unfold State.pop
  rw [dif_neg (by omega)]
  simp [h]

end Sys2Proof.Machine
end

