-- ==== Sys2Proof/Laws/Step.lean ====
section
/-! SUPPORT. What a fetch and a step can do, said once. -/

namespace Sys2Proof.Machine

open Sys2Proof

variable {s t : State}

/-- All a fetch can do (R46, R81). -/
theorem fetch_eq (s : State) :
    s.fetch = if s.pc.toNat ≤ 0xFFE then some (s.mem.get s.pc.toNat ++ s.mem.get (s.pc.toNat + 1)) else none :=
  memRead2_eq ..

theorem fetch_eq_none : s.fetch = none ↔ 0xFFE < s.pc.toNat := by
  rw [fetch_eq]
  split <;> simp <;> omega

/-- A fetch that succeeds starts at or below `0xFFE`. -/
theorem fetch_bound {w : Word} (h : s.fetch = some w) : s.pc.toNat ≤ 0xFFE := by
  by_contra hc
  rw [fetch_eq_none.mpr (by omega)] at h
  cases h

/-- The advanced `pc` does not wrap (R82). -/
theorem advance_pc_toNat {w : Word} (h : s.fetch = some w) : (s.advance w).pc.toNat = s.pc.toNat + 2 := by
  have := fetch_bound h
  rw [State.advance_pc, BitVec.toNat_add, show (2 : Word).toNat = 2 from rfl]
  omega

@[simp] theorem endTick_next (t : State) : endTick (.next t) = .next t.finishTick := rfl

theorem endTick_eq_next {o : Host.Outcome State Fault Refusal} (h : endTick o = .next t) :
    ∃ u, o = .next u ∧ t = u.finishTick := by
  cases o with
  | next u => exact ⟨u, rfl, (Host.Outcome.next.inj h).symm⟩
  | fault r => cases h
  | refused r => cases h

theorem step_of_halted (hh : s.halted = true) : step s = .next s := by simp [step, hh]

theorem step_of_fetch_none (hh : s.halted = false) (hf : s.fetch = none) : step s = .next (s.raise .addressOutOfRange) := by
  simp [step, hh, hf]

theorem step_of_fetch {w : Word} (hh : s.halted = false) (hf : s.fetch = some w) :
    step s = endTick (executeIr (s.advance w)) := by
  simp [step, hh, hf]

theorem executeIr_of_decode {w : Word} {i : Instr} (h : decodeWord w = some i) : executeIr (s.advance w) = exec i (s.advance w) := by
  simp [executeIr, h]

theorem executeIr_of_undefined {w : Word} (h : decodeWord w = none) : executeIr (s.advance w) = .next (s.advance w) := by
  simp [executeIr, h, execNoop]

/-- Everything a step that answers a next state has done: nothing on a halted core, a fetch fault, a no-op tick, or the tick of
one instruction. -/
theorem step_cases (h : step s = .next t) :
    (s.halted = true ∧ t = s) ∨
    (s.halted = false ∧ s.fetch = none ∧ t = s.raise .addressOutOfRange) ∨
    (∃ w, s.halted = false ∧ s.fetch = some w ∧ decodeWord w = none ∧ t = (s.advance w).finishTick) ∨
    (∃ w i u, s.halted = false ∧ s.fetch = some w ∧ decodeWord w = some i ∧ exec i (s.advance w) = .next u ∧
      t = u.finishTick) := by
  cases hh : s.halted with
  | true =>
    rw [step_of_halted hh] at h
    exact .inl ⟨rfl, (Host.Outcome.next.inj h).symm⟩
  | false =>
    cases hf : s.fetch with
    | none =>
      rw [step_of_fetch_none hh hf] at h
      exact .inr (.inl ⟨rfl, rfl, (Host.Outcome.next.inj h).symm⟩)
    | some w =>
      rw [step_of_fetch hh hf] at h
      obtain ⟨u, hu, rfl⟩ := endTick_eq_next h
      cases hd : decodeWord w with
      | none =>
        rw [executeIr_of_undefined hd] at hu
        obtain rfl := Host.Outcome.next.inj hu
        exact .inr (.inr (.inl ⟨w, rfl, rfl, hd, rfl⟩))
      | some i =>
        rw [executeIr_of_decode hd] at hu
        exact .inr (.inr (.inr ⟨w, i, u, rfl, rfl, hd, hu, rfl⟩))

end Sys2Proof.Machine
end

