-- ==== Sys2Proof/Tests/Slice0.lean ====
section
/-! SUPPORT. The model's own tests: the WellFormed smoke test, decoding of words written out from `30_encoding.md` R66, the vectors
of `95_test_vectors.md` (their ids in the comments), and a witness for the hypotheses of each statement. Expected values come
from the spec. -/

namespace Sys2Proof.Tests

open Sys2Proof Sys2Proof.Machine

/-! ## Helpers -/

/-- The state one tick leaves; the state itself if the tick gives none. -/
def after (s : State) : State :=
  match step s with
  | .next t => t
  | .fault _ => s
  | .refused _ => s

/-- The state one tick of the word `w` at `pc` leaves. -/
def tick (w : Nat) (s : State) : State := after (s.withFetchWord 16 w)

/-- The state after reset with registers set. -/
def withRegs (l : List (Reg × Byte)) : State := l.foldl (fun s r => s.writeV r.1 r.2) State.reset

/-- The state with bytes stored from `a` up. -/
def withBytes (a : Nat) (bytes : List Byte) (s : State) : State := s.writeMem (s.mem.setBlock a bytes)

/-! ## WellFormed -/

theorem test_wellFormed_refuses_sixteen_rows : (Instr.drw 0 0 16).wellFormed = false := by decide

theorem test_wellFormed_takes_fifteen_rows : (Instr.drw 0 0 15).wellFormed = true := by decide

/-! ## Decoding (R66): one word per constructor, its fields distinct -/

theorem test_decode_control_flow :
    [0x00EE, 0x1234, 0x2ABC, 0xB301, 0x3A10, 0x4B11, 0x5120, 0x9340].map (decodeTableWord 16) =
      [some .ret, some (.jp 0x234), some (.call 0xABC), some (.jpV0 0x301), some (.seImm 0xA 0x10), some (.sneImm 0xB 0x11),
        some (.seReg 1 2), some (.sneReg 3 4)] := by decide

theorem test_decode_load_and_logic :
    [0x602A, 0x7120, 0x8120, 0x8341, 0x8562, 0x8783].map (decodeTableWord 16) =
      [some (.ldImm 0 0x2A), some (.addImm 1 0x20), some (.ldReg 1 2), some (.orReg 3 4), some (.andReg 5 6),
        some (.xorReg 7 8)] := by decide

theorem test_decode_arithmetic :
    [0x89A4, 0x8BC5, 0x8DE6, 0x8F07, 0x812E, 0xC30F].map (decodeTableWord 16) =
      [some (.addReg 9 0xA), some (.sub 0xB 0xC), some (.shr 0xD 0xE), some (.subn 0xF 0), some (.shl 1 2),
        some (.rnd 3 0x0F)] := by decide

theorem test_decode_index_and_memory :
    [0xA300, 0xF21E, 0xF429, 0xF033, 0xF155, 0xF265].map (decodeTableWord 16) =
      [some (.ldI 0x300), some (.addI 2), some (.ldF 4), some (.ldB 0), some (.dump 1), some (.load 2)] := by decide

theorem test_decode_display_keypad_timers :
    [0x00E0, 0xD125, 0xE29E, 0xE3A1, 0xF407, 0xF50A, 0xF615, 0xF718].map (decodeTableWord 16) =
      [some .cls, some (.drw 1 2 5), some (.skp 2), some (.sknp 3), some (.ldVxDt 4), some (.ldVxK 5), some (.ldDtVx 6),
        some (.ldStVx 7)] := by decide

/-- TK5, TK6, TK10, TK11, TK12: undefined words, and TK7: the low nibble of family 5 is not decoded. -/
theorem test_decode_undefined_words :
    [0x8128, 0x0000, 0xE19F, 0xF1FF, 0xE10E, 0x5121].map (decodeTableWord 16) =
      [none, none, none, none, none, some (.seReg 1 2)] := by decide

theorem test_decode_bytes :
    decode [0x12, 0x34, 0x56] = .instr (.jp 0x234) [0x56] ∧ decode [0x81, 0x28] = .undefinedWord 0x8128 [] ∧
      decode [0x12] = .truncated := by decide

/-! ## The tick -/

/-- TK2: an odd `pc` fetches normally. -/
theorem test_tick_odd_pc : (tick 0x6007 (State.reset.writePc 0x201)).readV 0 = 7 ∧
    (tick 0x6007 (State.reset.writePc 0x201)).pc = 0x203 := by decide

/-- TK3: the fetch fault. -/
theorem test_tick_fetch_fault : (after ((State.reset.writePc 0xFFF).writeDt 5)).faultRead = 4 ∧
    (after ((State.reset.writePc 0xFFF).writeDt 5)).pc = 0x0FFF ∧ (after ((State.reset.writePc 0xFFF).writeDt 5)).dt = 5 := by
  decide

/-- TK5: the no-op tick counts the timers. -/
theorem test_tick_undefined_word : (tick 0x8128 ((State.reset.writeDt 3).writeSt 1)).pc = 0x202 ∧
    (tick 0x8128 ((State.reset.writeDt 3).writeSt 1)).dt = 2 ∧ (tick 0x8128 ((State.reset.writeDt 3).writeSt 1)).st = 0 := by
  decide

/-- TK8: a halted core's tick changes nothing. -/
theorem test_tick_halted : after ((State.reset.raise .stackOverflow).writeDt 9) = (State.reset.raise .stackOverflow).writeDt 9 := by
  decide

/-! ## Control flow -/

/-- CF1. -/
theorem test_ret_pops : (tick 0x00EE { State.reset with sp := 1, stack := State.reset.stack.set 0 0x206 }).pc = 0x206 ∧
    (tick 0x00EE { State.reset with sp := 1, stack := State.reset.stack.set 0 0x206 }).sp = 0 := by decide

/-- CF2. -/
theorem test_ret_underflow : (tick 0x00EE State.reset).faultRead = 3 ∧ (tick 0x00EE State.reset).pc = 0x202 := by decide

/-- CF3. -/
theorem test_call_pushes : (tick 0x220A (State.reset.writePc 0x204)).stack[0] = 0x206 ∧
    (tick 0x220A (State.reset.writePc 0x204)).pc = 0x20A := by decide

/-- CF4. -/
theorem test_call_overflow : (tick 0x2300 { State.reset with sp := 16 }).faultRead = 2 ∧
    (tick 0x2300 { State.reset with sp := 16 }).sp = 16 := by decide

/-- SX1. -/
theorem test_jp : (tick 0x1234 State.reset).pc = 0x234 := by decide

/-- CF10. -/
theorem test_jpV0_no_wrap : (tick 0xBFFF (withRegs [(0, 0xFF)])).pc = 0x10FE := by decide

/-- CF11, CF12. -/
theorem test_seImm : (tick 0x3310 (withRegs [(3, 0x10)])).pc = 0x204 ∧ (tick 0x3310 (withRegs [(3, 0x11)])).pc = 0x202 := by decide

/-- CF13, CF14. -/
theorem test_sneImm : (tick 0x4310 (withRegs [(3, 0x10)])).pc = 0x202 ∧ (tick 0x4310 (withRegs [(3, 0x11)])).pc = 0x204 := by decide

/-- CF15, CF16. -/
theorem test_seReg : (tick 0x5120 (withRegs [(1, 7), (2, 8)])).pc = 0x202 ∧ (tick 0x5440 (withRegs [(4, 0x33)])).pc = 0x204 := by decide

/-- CF17, CF18. -/
theorem test_sneReg : (tick 0x9120 (withRegs [(1, 7), (2, 8)])).pc = 0x204 ∧ (tick 0x9440 (withRegs [(4, 0x33)])).pc = 0x202 := by decide

/-! ## Load, arithmetic, logic, shift, random -/

/-- AL1. -/
theorem test_ldImm : (tick 0x602A State.reset).readV 0 = 0x2A := by decide

/-- AL4: no carry flag. -/
theorem test_addImm : (tick 0x7101 (withRegs [(1, 0xFF), (15, 0x5A)])).readV 1 = 0 ∧
    (tick 0x7101 (withRegs [(1, 0xFF), (15, 0x5A)])).readV 15 = 0x5A := by decide

/-- AL7. -/
theorem test_ldReg : (tick 0x8120 (withRegs [(2, 9)])).readV 1 = 9 := by decide

/-- AL8: VF is not cleared. -/
theorem test_orReg : (tick 0x8121 (withRegs [(1, 0xF0), (2, 0x0F), (15, 1)])).readV 1 = 0xFF ∧
    (tick 0x8121 (withRegs [(1, 0xF0), (2, 0x0F), (15, 1)])).readV 15 = 1 := by decide

/-- AL9. -/
theorem test_andReg : (tick 0x8122 (withRegs [(1, 0xF3), (2, 0x3C)])).readV 1 = 0x30 := by decide

/-- AL10. -/
theorem test_xorReg : (tick 0x8123 (withRegs [(1, 0xFF), (2, 0x0F)])).readV 1 = 0xF0 := by decide

/-- SX2. -/
theorem test_addReg : (tick 0x8014 (withRegs [(0, 0xFF), (1, 2)])).readV 0 = 1 ∧
    (tick 0x8014 (withRegs [(0, 0xFF), (1, 2)])).readV 15 = 1 := by decide

/-- AL15, AL17: with `x = F` the flag stays and the sum is lost. -/
theorem test_addReg_into_vf : (tick 0x8F14 (withRegs [(15, 0x10), (1, 0x20)])).readV 15 = 0 ∧
    (tick 0x8F14 (withRegs [(15, 0xFF), (1, 2)])).readV 15 = 1 := by decide

/-- AL18. -/
theorem test_sub : (tick 0x8125 (withRegs [(1, 5), (2, 7)])).readV 1 = 0xFE ∧
    (tick 0x8125 (withRegs [(1, 5), (2, 7), (15, 9)])).readV 15 = 0 := by decide

/-- AL20: equality is no borrow. -/
theorem test_sub_equal : (tick 0x8125 (withRegs [(1, 7), (2, 7)])).readV 15 = 1 := by decide

/-- AL27. -/
theorem test_subn : (tick 0x8127 (withRegs [(1, 5), (2, 7)])).readV 1 = 2 ∧
    (tick 0x8127 (withRegs [(1, 5), (2, 7)])).readV 15 = 1 := by decide

/-- AL23: `y` is ignored. -/
theorem test_shr : (tick 0x8126 (withRegs [(1, 4), (2, 0xFF)])).readV 1 = 2 ∧
    (tick 0x8126 (withRegs [(1, 4), (2, 0xFF)])).readV 15 = 0 := by decide

/-- AL25: with `x = F` the flag stays. -/
theorem test_shr_of_vf : (tick 0x8F06 (withRegs [(15, 2)])).readV 15 = 0 := by decide

/-- AL30. -/
theorem test_shl : (tick 0x810E (withRegs [(1, 0x81)])).readV 1 = 2 ∧ (tick 0x810E (withRegs [(1, 0x81)])).readV 15 = 1 := by decide

/-- AL38, for any drawn byte. -/
theorem test_rnd_masks : ∃ t, exec (.rnd 5 0xF0) State.reset = .next t ∧ t.readV 5 &&& 0x0F = 0 := by
  refine ⟨_, rfl, ?_⟩
  show (State.reset.rndByte &&& 0xF0) &&& 0x0F = 0
  rw [BitVec.and_assoc]
  simp

/-! ## Index register and memory -/

/-- IM1. -/
theorem test_ldI : (tick 0xA300 (State.reset.writeI 0xFFFF)).i = 0x300 := by decide

/-- IM3, IM4: 16 bits and no flag. -/
theorem test_addI : (tick 0xF11E ((withRegs [(1, 1)]).writeI 0x0FFF)).i = 0x1000 ∧
    (tick 0xF11E ((withRegs [(1, 1)]).writeI 0xFFFF)).i = 0 := by decide

/-- IM7, IM8. -/
theorem test_ldF : (tick 0xF429 (withRegs [(4, 0x0F)])).i = 0x9B ∧ (tick 0xF429 (withRegs [(4, 0xFF)])).i = 0x54B := by decide

/-- SX4. -/
theorem test_ldB : [0x300, 0x301, 0x302].map (tick 0xF033 ((withRegs [(0, 157)]).writeI 0x300)).readByte =
    [some 1, some 5, some 7] := by decide

/-- IM13: nothing is written. -/
theorem test_ldB_fault : (tick 0xF033 ((withRegs [(0, 0x64)]).writeI 0xFFE)).faultRead = 4 ∧
    (tick 0xF033 ((withRegs [(0, 0x64)]).writeI 0xFFE)).readByte 0xFFE = some 0 := by decide

/-- IM14. -/
theorem test_dump : [0x300, 0x301, 0x302].map
    (tick 0xF155 ((withRegs [(0, 0x11), (1, 0x22), (2, 0x33)]).writeI 0x300)).readByte = [some 0x11, some 0x22, some 0] := by decide

/-- IM17. -/
theorem test_dump_fault : (tick 0xFF55 (State.reset.writeI 0xFF1)).faultRead = 4 := by decide

/-- IM19: glyph 0. -/
theorem test_load_glyph : [0, 1, 2, 3, 4, 5].map (tick 0xF465 ((withRegs [(5, 0x99)]).writeI 0x050)).readV =
    [0xF0, 0x90, 0x90, 0x90, 0xF0, 0x99] := by decide

/-- IM21. -/
theorem test_load_fault : (tick 0xF065 (State.reset.writeI 0x1000)).faultRead = 4 := by decide

/-! ## Display -/

/-- DG1. -/
theorem test_cls : (tick 0x00E0 (State.reset.writeFb (blankFramebuffer.setPixel 3 4 true))).fb = blankFramebuffer := by
  decide +kernel

/-- DG4: dropped at both edges. -/
theorem test_drw_clips :
    (tick 0xD012 (withBytes 0x300 [0xFF, 0xFF] ((withRegs [(0, 60), (1, 31)]).writeI 0x300))).fb =
      [60, 61, 62, 63].foldl (fun fb c => fb.setPixel 31 c true) blankFramebuffer := by decide +kernel

/-- DG6: collision at the right edge, one pixel dropped. -/
theorem test_drw_collides :
    (tick 0xD011 (withBytes 0x300 [0x81]
      (((withRegs [(0, 57)]).writeI 0x300).writeFb (blankFramebuffer.setPixel 0 57 true)))).readV 15 = 1 := by decide +kernel

/-! ## Keypad and timers -/

/-- KT5: the low four bits select. -/
theorem test_skp : (tick 0xE29E ((withRegs [(2, 0x1A)]).writeKey 0xA true)).pc = 0x204 ∧
    (tick 0xE29E (withRegs [(2, 0x0A)])).pc = 0x202 := by decide

/-- KT3, KT4. -/
theorem test_sknp : (tick 0xE2A1 ((withRegs [(2, 0x0A)]).writeKey 0xB true)).pc = 0x204 ∧
    (tick 0xE2A1 ((withRegs [(2, 0x0A)]).writeKey 0xA true)).pc = 0x202 := by decide

/-- KT6: the lowest key. -/
theorem test_ldVxK : (tick 0xF50A ((State.reset.writeKey 7 true).writeKey 3 true)).readV 5 = 3 := by decide

/-- KT7: the wait. -/
theorem test_ldVxK_waits : (tick 0xF50A ((withRegs [(5, 0x77)]).writeDt 4)).pc = 0x200 ∧
    (tick 0xF50A ((withRegs [(5, 0x77)]).writeDt 4)).readV 5 = 0x77 ∧ (tick 0xF50A ((withRegs [(5, 0x77)]).writeDt 4)).dt = 3 := by
  decide

/-- KT9. -/
theorem test_ldVxDt : (tick 0xF107 (State.reset.writeDt 2)).readV 1 = 2 ∧ (tick 0xF107 (State.reset.writeDt 2)).dt = 1 := by decide

/-- KT10, KT12. -/
theorem test_ldDtVx : (tick 0xF015 (withRegs [(0, 3)])).dt = 2 ∧ (tick 0xF015 (State.reset.writeDt 9)).dt = 0 := by decide

/-- KT13. -/
theorem test_ldStVx : (tick 0xF018 ((withRegs [(0, 0x10)]).writeDt 5)).st = 0x0F ∧
    (tick 0xF018 ((withRegs [(0, 0x10)]).writeDt 5)).dt = 4 := by decide

/-! ## Reset and the host -/

/-- RF1, on bytes and `pc`. -/
theorem test_construct : ∃ t, construct [0x12, 0x00] = .next t ∧ t.pc = 0x200 ∧
    [0x200, 0x201, 0x202, 0x050, 0x09F, 0x04F, 0x0A0].map t.readByte =
      [some 0x12, some 0, some 0, some 0xF0, some 0x80, some 0, some 0] := ⟨_, rfl, by decide⟩

/-- RF5: a reset clears the latch. -/
theorem test_reset_clears_fault : ∃ t, hostReset [0x12, 0x00] (State.reset.raise .stackOverflow) = .next t ∧ t.faultRead = 0 :=
  ⟨_, rfl, by decide⟩

/-- R19: the host's flat order. -/
theorem test_framebufferRead : (State.reset.writeFb (blankFramebuffer.setPixel 1 2 true)).framebufferRead[66]? = some true := by
  decide +kernel

/-! ## Witnesses: a concrete state and operands that meet the hypotheses of each statement -/

/-- The state after reset with a word where the next tick fetches. -/
def holding (w : Nat) : State := State.reset.withFetchWord 16 w

theorem runs_of {s : State} {w : Word} {i : Instr} (h : s.halted = false ∧ s.fetch = some w ∧ decodeWord w = some i) : s.runs i :=
  ⟨h.1, w, h.2.1, h.2.2⟩

theorem witness_DecodeEncodeRoundTrip : (Instr.drw 15 14 15).wellFormed = true := by decide

theorem witness_EncodeDecodeCanonical : decodeWord 0x512F = some (.seReg 1 2) ∧ decodeWord 0xFF65 = some (.load 15) := by decide

theorem witness_DecodeFollowsOpcodeMap : decodeWord 0x800E = some (.shl 0 0) ∧ decodeWord 0x800F = none := by decide

theorem witness_UndefinedWordTickIsNoop : (holding 0x0000).fault = .none ∧ (holding 0x0000).fetch = some 0x0000 ∧
    ∀ r ∈ opcodeMap, r.selects 0x0000 = false := by decide

theorem witness_TickFollowsItsFourSteps_halted : (State.reset.raise .stackUnderflow).fault ≠ .none := by decide

theorem witness_TickFollowsItsFourSteps_fetch_fault : (State.reset.writePc 0xFFF).fault = .none ∧
    0xFFE < (State.reset.writePc 0xFFF).pc.toNat := by decide

theorem witness_TickFollowsItsFourSteps_last_word :
    ((State.reset.writePc 0xFFE).withFetchWord 16 0x6A01).readByte 0xFFE = some 0x6A ∧
    ((State.reset.writePc 0xFFE).withFetchWord 16 0x6A01).readByte 0xFFF = some 0x01 ∧
    decode [0x6A, 0x01] = .instr (.ldImm 0xA 1) [] := by decide

theorem witness_HaltedCoreNeverChanges : (State.reset.raise .invalidProgramSize).fault ≠ .none := by decide

theorem witness_TimersCountEveryTick_loads : (holding 0xF015).runs (.ldDtVx 0) ∧ (holding 0xF018).runs (.ldStVx 0) ∧
    (holding 0xF107).runs (.ldVxDt 1) :=
  ⟨runs_of (w := 0xF015) (by decide), runs_of (w := 0xF018) (by decide), runs_of (w := 0xF107) (by decide)⟩

theorem witness_TimersCountEveryTick_other :
    (holding 0x0000).fault = .none ∧ (∃ t, step (holding 0x0000) = .next t ∧ t.fault = .none) ∧
    (∀ x, ¬(holding 0x0000).runs (.ldDtVx x)) ∧ ∀ x, ¬(holding 0x0000).runs (.ldStVx x) := by
  have hn : ∀ i, ¬(holding 0x0000).runs i := by
    rintro i ⟨_, w, hf, hd⟩
    rw [show (holding 0x0000).fetch = some 0x0000 by decide] at hf
    obtain rfl := Option.some.inj hf
    rw [show decodeWord 0x0000 = none by decide] at hd
    cases hd
  exact ⟨by decide, ⟨_, rfl, by decide⟩, fun x => hn _, fun x => hn _⟩

theorem witness_StepKeepsMachineInvariant : (holding 0x2300).Inv ∧ ∃ t, step (holding 0x2300) = .next t :=
  ⟨⟨by decide, by decide, by decide⟩, _, rfl⟩

theorem witness_HostRunKeepsMachineInvariant : State.reset.Inv ∧
    ∃ t, hostRun [.reset [0xF2, 0x0A], .tick, .keyWrite 3 true, .tick] State.reset = .next t :=
  ⟨⟨by decide, by decide, by decide⟩, _, rfl⟩

theorem witness_FaultsArePrecise : (∃ t, step (State.reset.writePc 0xFFF) = .next t ∧ t.fault ≠ .none) ∧
    ∃ t, step (holding 0x00EE) = .next t ∧ t.fault ≠ .none := ⟨⟨_, rfl, by decide⟩, _, rfl, by decide⟩

theorem witness_FaultCausesHaveTheirOrigins :
    (∃ t, step ({ State.reset with sp := 16 }.withFetchWord 16 0x2300) = .next t ∧ t.fault = .stackOverflow) ∧
    (∃ t, step (holding 0x00EE) = .next t ∧ t.fault = .stackUnderflow) ∧
    (∃ t, step ((State.reset.writeI 0xFFF).withFetchWord 16 0xD012) = .next t ∧ t.fault = .addressOutOfRange) :=
  ⟨⟨_, rfl, by decide⟩, ⟨_, rfl, by decide⟩, _, rfl, by decide⟩

theorem witness_OnlyNamedInstructionsWrite : (holding 0x6005).runs (.ldImm 0 5) ∧ ∃ t, step (holding 0x6005) = .next t :=
  ⟨runs_of (w := 0x6005) (by decide), _, rfl⟩

theorem witness_FlagRegisterWriters : (∃ t, exec (.ldImm 15 7) State.reset = .next t ∧ t.readV vf ≠ State.reset.readV vf) ∧
    (∃ t, exec (.sub 1 2) State.reset = .next t) ∧ ∃ t, exec (.drw 1 2 3) State.reset = .next t :=
  ⟨⟨_, rfl, by decide⟩, ⟨_, rfl⟩, _, rfl⟩

theorem witness_StaleStackEntriesAreUnobservable :
    AgreeOnLiveStack (holding 0x2300) { holding 0x2300 with stack := (holding 0x2300).stack.set 3 0x0ABC } ∧
    (∃ t, step (holding 0x2300) = .next t) := ⟨⟨by decide, by decide⟩, _, rfl⟩

theorem witness_InstructionRegisterIsEphemeral : (State.reset.writePc 0xFFE).fault = .none ∧
    (State.reset.writePc 0xFFE).pc.toNat ≤ 0xFFE := by decide

theorem witness_SoundTimerIsReadByNothing : ∃ t, step (holding 0xF018) = .next t := ⟨_, rfl⟩

theorem witness_CallPushesAdvancedPc : State.reset.sp.val = (0 : Fin 16).val ∧
    { State.reset with sp := 15 }.sp.val = (15 : Fin 16).val ∧ { State.reset with sp := 16 }.sp.val = 16 := by decide

theorem witness_ReturnPopsPc : { State.reset with sp := 1 }.sp.val = (0 : Fin 16).val + 1 ∧
    { State.reset with sp := 16 }.sp.val = (15 : Fin 16).val + 1 ∧ State.reset.sp.val = 0 := by decide

theorem witness_ReturnResumesAfterCall : { State.reset with sp := 15 }.sp.val < 16 ∧
    ∃ t, exec (.call 0x300) { State.reset with sp := 15 } = .next t := ⟨by decide, _, rfl⟩

theorem witness_SkipsOnImmediate : State.reset.readV 3 = 0 ∧ State.reset.readV 3 ≠ 1 := by decide

theorem witness_SkipsOnRegisters : (0x512F : Word).toNat / 4096 = 5 ∧ (0x9FFF : Word).toNat / 4096 = 9 ∧
    State.reset.readV 1 = State.reset.readV 2 ∧ (withRegs [(1, 7)]).readV 1 ≠ (withRegs [(1, 7)]).readV 2 := by decide

theorem witness_AddSetsCarry : (0 : Reg) ≠ vf := by decide

theorem witness_SubtractSetsNoBorrow : (14 : Reg) ≠ vf ∧
    ((withRegs [(1, 7)]).readV 2).toNat < ((withRegs [(1, 7)]).readV 1).toNat ∧
    (State.reset.readV 2).toNat ≤ (State.reset.readV 1).toNat := by decide

theorem witness_ShiftsSetShiftedOutBit : (1 : Reg) ≠ vf := by decide

theorem witness_StoreBcdWritesThreeDigits : (State.reset.writeI 0xFFD).i.toNat + 2 ≤ 0xFFF ∧
    0xFFF < (State.reset.writeI 0xFFE).i.toNat + 2 := by decide

theorem witness_RegisterDumpStoresBlock : (State.reset.writeI 0xFF0).i.toNat + (15 : Reg).val ≤ 0xFFF ∧
    0xFFF < (State.reset.writeI 0xFF1).i.toNat + (15 : Reg).val := by decide

theorem witness_RegisterLoadReadsBlock : (State.reset.writeI 0xFFF).i.toNat + (0 : Reg).val ≤ 0xFFF ∧
    0xFFF < (State.reset.writeI 0x1000).i.toNat + (0 : Reg).val := by decide

theorem witness_LoadAfterDumpRestores : (State.reset.writeI 0x300).i.toNat + (2 : Reg).val ≤ 0xFFF ∧
    ∃ t, exec (.dump 2) (State.reset.writeI 0x300) = .next t ∧ (State.writeV t 0 9).mem = t.mem ∧
      (State.writeV t 0 9).i = (State.reset.writeI 0x300).i := ⟨by decide, _, rfl, rfl, rfl⟩

theorem witness_StoreIsSeenByFetch : (State.reset.writeI 0x300).i.toNat + (1 : Reg).val ≤ 0xFFF ∧
    (∃ t, exec (.dump 1) (State.reset.writeI 0x300) = .next t) ∧ (1 : Reg).val = (0 : Reg).val + 1 ∧ (1 : Reg) ≤ 1 :=
  ⟨by decide, ⟨_, rfl⟩, by decide, by decide⟩

theorem witness_DrawXorsSpriteAndCollides :
    (State.reset.writeI 0xFFE).i.toNat + 2 - 1 ≤ 0xFFF ∧ 0xFFF < (State.reset.writeI 0xFFF).i.toNat + 2 - 1 ∧
    spriteOn (withBytes 0x300 [0x80] (State.reset.writeI 0x300)) 0 1 1 0 0 = true ∧
    (blankFramebuffer.setPixel 0 0 true).pixel 0 0 = true := by decide +kernel

theorem witness_DrawTwiceRestoresFramebuffer : (0 : Reg) ≠ vf ∧ (1 : Reg) ≠ vf ∧ (State.reset.writeI 0x300).i.toNat + 1 - 1 ≤ 0xFFF ∧
    ∃ t u, exec (.drw 0 1 1) (State.reset.writeI 0x300) = .next t ∧ exec (.drw 0 1 1) t = .next u :=
  ⟨by decide, by decide, by decide, _, _, rfl, rfl⟩

/-- Both coordinates in VF: VF is 0 before, and the glyph 0 drawn on a blank display leaves it 0. -/
theorem witness_DrawTwiceRestoresFramebuffer_flag_place : (State.reset.writeI 0x050).i.toNat + 1 - 1 ≤ 0xFFF ∧
    ∃ t u, exec (.drw vf vf 1) (State.reset.writeI 0x050) = .next t ∧ exec (.drw vf vf 1) t = .next u ∧
      t.spriteColumn vf = (State.reset.writeI 0x050).spriteColumn vf ∧
      t.spriteRow vf = (State.reset.writeI 0x050).spriteRow vf :=
  ⟨by decide, _, _, rfl, rfl, by decide +kernel, by decide +kernel⟩

theorem witness_KeySkipsFollowLatch : ((withRegs [(2, 0x1A)]).readV 2).toNat % 16 = (0xA : Reg).val ∧
    ((withRegs [(2, 0x1A)]).writeKey 0xA true).readKey 0xA = true ∧ (withRegs [(2, 0x1A)]).readKey 0xA = false := by decide

theorem witness_WaitForKeyRepeats : (State.reset.writeKey 3 true).readKey 3 = true ∧
    (∀ j : Reg, j < 3 → (State.reset.writeKey 3 true).readKey j = false) ∧ (∀ k, (holding 0xF20A).readKey k = false) ∧
    (holding 0xF20A).runs (.ldVxK 2) := ⟨by decide, by decide, by decide, runs_of (w := 0xF20A) (by decide)⟩

theorem witness_TimerTransfers : (holding 0xFF07).runs (.ldVxDt 15) ∧ (holding 0xFF15).runs (.ldDtVx 15) ∧
    (holding 0xFF18).runs (.ldStVx 15) :=
  ⟨runs_of (w := 0xFF07) (by decide), runs_of (w := 0xFF15) (by decide), runs_of (w := 0xFF18) (by decide)⟩

theorem witness_ResetLoadsProgramImage : (List.replicate 3584 (0xAB : Byte)).length ≤ 3584 ∧
    3584 < (List.replicate 3585 (0xAB : Byte)).length := by
  rw [List.length_replicate, List.length_replicate]; decide

theorem witness_LogicIsBitwise : 7 < 8 := by decide

/-- The boundary addresses of the clauses of `ResetValues` (R29), each under one clause alone. -/
theorem witness_ResetValues : State.reset.readByte 0x04F = some 0 ∧ State.reset.readByte 0x050 = some 0xF0 ∧
    State.reset.readByte 0x09F = some 0x80 ∧ State.reset.readByte 0x0A0 = some 0 ∧ State.reset.readByte 0xFFF = some 0 ∧
    State.reset.readByte 0x1000 = none := by decide

theorem witness_FramebufferReadIsRowMajor : 31 < 32 ∧ 63 < 64 ∧ State.reset.framebufferRead[31 * 64 + 63]? = some false :=
  ⟨by decide, by decide, by decide +kernel⟩

end Sys2Proof.Tests
end

section
/-! What `exec` can do, said once: `Effect` lists the updates an instruction may end in, and `exec_effect` is the inversion
lemma of `exec`. The statements about what every instruction keeps are case analyses of `Effect`. -/

namespace Sys2Proof

/-- The register that an instruction other than a flag writer, `RND` and `LD Vx, [I]` names as its destination. -/
def Instr.dest (i : Instr) : Option Reg :=
  match i with
  | .ldImm x _ | .addImm x _ | .ldReg x _ | .orReg x _ | .andReg x _ | .xorReg x _ | .ldVxDt x | .ldVxK x => some x
  | _ => none

/-- The flag writers of R12 but `DRW`: a result to `V[x]`, then the flag to VF. -/
def Instr.setsResultAndFlag (i : Instr) : Bool :=
  match i with
  | .addReg _ _ | .sub _ _ | .subn _ _ | .shr _ _ | .shl _ _ => true
  | _ => false

/-- The writers of `I` (R13). -/
def Instr.setsIndex (i : Instr) : Bool :=
  match i with
  | .ldI _ | .addI _ | .ldF _ => true
  | _ => false

/-- The instructions other than `CALL` and `RET` that can write `pc`: jumps, skips and the wait for a key (R85). -/
def Instr.movesPc (i : Instr) : Bool :=
  match i with
  | .jp _ | .jpV0 _ | .seImm _ _ | .sneImm _ _ | .seReg _ _ | .sneReg _ _ | .skp _ | .sknp _ | .ldVxK _ => true
  | _ => false

/-- How many bytes from `I` up an instruction checks and accesses (R49). -/
def Instr.accessBytes (i : Instr) : Nat :=
  match i with
  | .ldB _ => 3
  | .dump x | .load x => x.val + 1
  | .drw _ _ n => n
  | _ => 0

theorem Instr.dest_eq_some {i : Instr} {x : Reg} (h : i.dest = some x) :
    (∃ kk, i = .ldImm x kk ∨ i = .addImm x kk) ∨
    (∃ y, i = .ldReg x y ∨ i = .orReg x y ∨ i = .andReg x y ∨ i = .xorReg x y) ∨
    i = .ldVxDt x ∨ i = .ldVxK x := by
  cases i <;> simp_all [Instr.dest]

theorem Instr.setsResultAndFlag_iff (i : Instr) : i.setsResultAndFlag = true ↔
    ∃ x y, i = .addReg x y ∨ i = .sub x y ∨ i = .subn x y ∨ i = .shr x y ∨ i = .shl x y := by
  cases i <;> simp [Instr.setsResultAndFlag]

theorem Instr.setsIndex_iff (i : Instr) : i.setsIndex = true ↔
    (∃ nnn, i = .ldI nnn) ∨ (∃ x, i = .addI x) ∨ ∃ x, i = .ldF x := by
  cases i <;> simp [Instr.setsIndex]

namespace Machine

/-- The state an instruction `i` may leave from `s`, by the update that gives it, with the guard of each fault. -/
inductive Effect (s : State) : Instr → State → Prop where
  | clear : Effect s .cls (s.writeFb blankFramebuffer)
  | draw {x y n} (fb : Framebuffer) (f : Bool) : Effect s (.drw x y n) ((s.writeFb fb).writeFlag f)
  | call {nnn} (h : s.sp.val < 16) : Effect s (.call nnn)
      (State.writePc { s with stack := s.stack.set s.sp.val s.pc h, sp := ⟨s.sp.val + 1, Nat.succ_lt_succ h⟩ } (addrTarget nnn))
  | ret (k : Fin 16) (h : s.sp.val = k.val + 1) : Effect s .ret
      (State.writePc { s with sp := ⟨k.val, Nat.lt_succ_of_lt k.isLt⟩ } s.stack[k])
  /-- to a jump target, or by one instruction word at most -/
  | move {i} (w : Word) (hi : i.movesPc = true)
      (hw : w.toNat ≤ 0x10FE ∨ w = s.pc ∨ w = s.pc + 2 ∨ w = s.pc - 2) : Effect s i (s.writePc w)
  | reg {i x} (b : Byte) (hi : i.dest = some x) : Effect s i (s.writeV x b)
  | random {x kk} (b : Byte) : Effect s (.rnd x kk) (s.consumeRnd.writeV x b)
  | result {i} (x : Reg) (r : Byte) (f : Bool) (hi : i.setsResultAndFlag = true) : Effect s i (s.writeResultFlag x r f)
  | load {x bs} (h : readBlock s.mem s.base (x.val + 1) = some bs) : Effect s (.load x) (s.writeRegs bs)
  | index {i} (w : Word) (hi : i.setsIndex = true) : Effect s i (s.writeI w)
  | storeBcd {x m} (h : writeBlock s.mem s.base (bcdDigits (s.readV x)) = some m) : Effect s (.ldB x) (s.writeMem m)
  | dump {x m} (h : writeBlock s.mem s.base (s.regsUpTo x) = some m) : Effect s (.dump x) (s.writeMem m)
  | setDt {x} : Effect s (.ldDtVx x) (s.writeDt (s.readV x))
  | setSt {x} : Effect s (.ldStVx x) (s.writeSt (s.readV x))
  | overflow {nnn} (h : s.sp.val = 16) : Effect s (.call nnn) (s.raise .stackOverflow)
  | underflow (h : s.sp.val = 0) : Effect s .ret (s.raise .stackUnderflow)
  | badAccess {i} (h : rangeOk s.base i.accessBytes = false) : Effect s i (s.raise .addressOutOfRange)

variable {s t : State} {i : Instr}

/-! ## `CALL` and `RET` below and at their stack limits -/

theorem sp_lt_or_full (s : State) : s.sp.val < 16 ∨ s.sp.val = 16 := by
  have hlt : s.sp.val < 17 := s.sp.isLt
  omega

theorem sp_zero_or_succ (s : State) : s.sp.val = 0 ∨ ∃ k : Fin 16, s.sp.val = k.val + 1 := by
  obtain h | h := Nat.eq_zero_or_pos s.sp.val
  · exact .inl h
  · have hlt : s.sp.val < 17 := s.sp.isLt
    exact .inr ⟨⟨s.sp.val - 1, by omega⟩, (Nat.sub_add_cancel h).symm⟩

theorem exec_call_of_lt (nnn : Addr) (h : s.sp.val < 16) : exec (.call nnn) s = .next (State.writePc
    { s with stack := s.stack.set s.sp.val s.pc h, sp := ⟨s.sp.val + 1, Nat.succ_lt_succ h⟩ } (addrTarget nnn)) := by
  rw [exec, execCall, push_of_lt s.pc h]

theorem exec_call_of_full (nnn : Addr) (h : s.sp.val = 16) : exec (.call nnn) s = .next (s.raise .stackOverflow) := by
  rw [exec, execCall, push_eq_none.mpr h]

theorem exec_ret_of_succ (k : Fin 16) (h : s.sp.val = k.val + 1) : exec .ret s =
    .next (State.writePc { s with sp := ⟨k.val, Nat.lt_succ_of_lt k.isLt⟩ } s.stack[k]) := by
  rw [exec, execRet, pop_of_succ k h]

theorem exec_ret_of_empty (h : s.sp.val = 0) : exec .ret s = .next (s.raise .stackUnderflow) := by
  rw [exec, execRet, pop_eq_none.mpr h]

/-! ## The instructions that can end in two ways, one at a time -/

theorem effect_skipIf (c : Bool) (hi : i.movesPc = true) : Effect s i (s.skipIf c) := by
  cases c
  · exact .move s.pc hi (.inr (.inl rfl))
  · exact .move (s.pc + 2) hi (.inr (.inr (.inl rfl)))

theorem effect_of_ret (h : exec .ret s = .next t) : Effect s .ret t := by
  obtain hempty | ⟨k, hk⟩ := sp_zero_or_succ s
  · obtain rfl := Host.Outcome.next.inj ((exec_ret_of_empty hempty).symm.trans h)
    exact .underflow hempty
  · obtain rfl := Host.Outcome.next.inj ((exec_ret_of_succ k hk).symm.trans h)
    exact .ret k hk

theorem effect_of_call {nnn : Addr} (h : exec (.call nnn) s = .next t) : Effect s (.call nnn) t := by
  obtain hlt | hfull := sp_lt_or_full s
  · obtain rfl := Host.Outcome.next.inj ((exec_call_of_lt nnn hlt).symm.trans h)
    exact .call hlt
  · obtain rfl := Host.Outcome.next.inj ((exec_call_of_full nnn hfull).symm.trans h)
    exact .overflow hfull

theorem effect_of_drw {x y : Reg} {n : Nat} (h : exec (.drw x y n) s = .next t) : Effect s (.drw x y n) t := by
  rw [exec, execDrw] at h
  split at h <;> obtain rfl := Host.Outcome.next.inj h
  next hread => exact .badAccess (readBlock_eq_none.mp hread)
  next => exact .draw _ _

theorem effect_of_ldB {x : Reg} (h : exec (.ldB x) s = .next t) : Effect s (.ldB x) t := by
  rw [exec, execLdB] at h
  split at h <;> obtain rfl := Host.Outcome.next.inj h
  next hwrite => exact .badAccess (writeBlock_eq_none.mp hwrite)
  next hwrite => exact .storeBcd hwrite

theorem effect_of_dump {x : Reg} (h : exec (.dump x) s = .next t) : Effect s (.dump x) t := by
  rw [exec, execDump] at h
  split at h <;> obtain rfl := Host.Outcome.next.inj h
  next hwrite =>
    rw [writeBlock_eq_none, regsUpTo_length] at hwrite
    exact .badAccess hwrite
  next hwrite => exact .dump hwrite

theorem effect_of_load {x : Reg} (h : exec (.load x) s = .next t) : Effect s (.load x) t := by
  rw [exec, execLoad] at h
  split at h <;> obtain rfl := Host.Outcome.next.inj h
  next hread => exact .badAccess (readBlock_eq_none.mp hread)
  next hread => exact .load hread

theorem effect_of_ldVxK {x : Reg} (h : exec (.ldVxK x) s = .next t) : Effect s (.ldVxK x) t := by
  rw [exec, execLdVxK] at h
  split at h <;> obtain rfl := Host.Outcome.next.inj h
  next => exact .reg _ rfl
  next => exact .move _ rfl (.inr (.inr (.inr rfl)))

/-- The target of `JP V0, nnn` is at most `0xFFF + 0xFF` (R93, R14). -/
theorem jumpTarget_le (nnn : Addr) (b : Byte) : (addrTarget nnn + zextByte b).toNat ≤ 0x10FE := by
  have := nnn.isLt
  have := b.isLt
  rw [BitVec.toNat_add, addrTarget_toNat, zextByte_toNat]
  omega

theorem addrTarget_le (nnn : Addr) : (addrTarget nnn).toNat ≤ 0xFFF := by
  have := nnn.isLt
  rw [addrTarget_toNat]
  omega

/-- Everything an instruction that answers a next state can have done. -/
theorem exec_effect (h : exec i s = .next t) : Effect s i t := by
  cases i with
  | ret => exact effect_of_ret h
  | call nnn => exact effect_of_call h
  | drw x y n => exact effect_of_drw h
  | ldB x => exact effect_of_ldB h
  | dump x => exact effect_of_dump h
  | load x => exact effect_of_load h
  | ldVxK x => exact effect_of_ldVxK h
  | cls => obtain rfl := Host.Outcome.next.inj h; exact .clear
  | rnd x kk => obtain rfl := Host.Outcome.next.inj h; exact .random _
  | ldDtVx x => obtain rfl := Host.Outcome.next.inj h; exact .setDt
  | ldStVx x => obtain rfl := Host.Outcome.next.inj h; exact .setSt
  | jp nnn => obtain rfl := Host.Outcome.next.inj h; exact .move _ rfl (.inl ((addrTarget_le nnn).trans (by decide)))
  | jpV0 nnn => obtain rfl := Host.Outcome.next.inj h; exact .move _ rfl (.inl (jumpTarget_le nnn _))
  | seImm | sneImm | seReg | sneReg | skp | sknp => obtain rfl := Host.Outcome.next.inj h; exact effect_skipIf _ rfl
  | ldImm | addImm | ldReg | orReg | andReg | xorReg | ldVxDt =>
    obtain rfl := Host.Outcome.next.inj h; exact .reg _ rfl
  | addReg | sub | shr | subn | shl => obtain rfl := Host.Outcome.next.inj h; exact .result _ _ _ rfl
  | ldI | addI | ldF => obtain rfl := Host.Outcome.next.inj h; exact .index _ rfl

end Machine
end Sys2Proof
end

section
/-! What an instruction leaves unchanged, the machine's invariant and the writers of VF, from `Effect`. -/

namespace Sys2Proof.Machine

open Sys2Proof

variable {s t u : State} {i : Instr} {w : Word}

theorem Effect.stack_eq (h : Effect s i t) (hcall : ∀ nnn, i ≠ .call nnn) (hret : i ≠ .ret) :
    t.sp = s.sp ∧ t.stack = s.stack := by
  cases h with
  | call => exact absurd rfl (hcall _)
  | ret => exact absurd rfl hret
  | _ => exact ⟨rfl, rfl⟩

theorem Effect.fb_eq (h : Effect s i t) (hcls : i ≠ .cls) (hdrw : ∀ x y n, i ≠ .drw x y n) : t.fb = s.fb := by
  cases h with
  | clear => exact absurd rfl hcls
  | draw => exact absurd rfl (hdrw _ _ _)
  | _ => rfl

theorem Effect.mem_eq (h : Effect s i t) (hldB : ∀ x, i ≠ .ldB x) (hdump : ∀ x, i ≠ .dump x) : t.mem = s.mem := by
  cases h with
  | storeBcd => exact absurd rfl (hldB _)
  | dump => exact absurd rfl (hdump _)
  | _ => rfl

theorem Effect.i_eq (h : Effect s i t) (hi : i.setsIndex = false) : t.i = s.i := by
  cases h with
  | index w h => simp [hi] at h
  | _ => rfl

theorem Effect.rndCount_eq (h : Effect s i t) (hrnd : ∀ x kk, i ≠ .rnd x kk) : t.rndCount = s.rndCount := by
  cases h with
  | random => exact absurd rfl (hrnd _ _)
  | _ => rfl

theorem Effect.key_eq (h : Effect s i t) : t.key = s.key := by
  cases h <;> rfl

/-- The tick of one instruction: its effect on the advanced state, then the timers. -/
theorem effect_of_step (hrun : s.runs i) (h : step s = .next t) :
    ∃ w u, s.fetch = some w ∧ Effect (s.advance w) i u ∧ t = u.finishTick := by
  obtain ⟨hh, w, hf, hd⟩ := hrun
  rw [step_of_fetch hh hf, executeIr_of_decode hd] at h
  obtain ⟨u, hu, rfl⟩ := endTick_eq_next h
  exact ⟨w, u, hf, exec_effect hu, rfl⟩

/-! ## The invariant -/

/-- The invariant speaks of memory, `pc` and the stack alone. -/
theorem State.Inv.of_eq (hs : s.Inv) (hmem : t.mem = s.mem) (hpc : t.pc = s.pc) (hstack : t.stack = s.stack) : t.Inv :=
  ⟨hmem ▸ hs.mem, hpc ▸ hs.pc, hstack ▸ hs.stack⟩

theorem State.Inv.finishTick (hs : s.Inv) : s.finishTick.Inv :=
  hs.of_eq s.finishTick_mem s.finishTick_pc s.finishTick_stack

theorem State.Inv.writePc (hs : s.Inv) (hw : w.toNat ≤ 0x10FE) : (s.writePc w).Inv := ⟨hs.mem, hw, hs.stack⟩

theorem State.Inv.writeMem {m : Memory} (hs : s.Inv) (hm : m.wf = true) : (s.writeMem m).Inv := ⟨hm, hs.pc, hs.stack⟩

theorem State.Inv.advance (hs : s.Inv) (hf : s.fetch = some w) : (s.advance w).Inv := by
  have hbound := fetch_bound hf
  exact ⟨hs.mem, by rw [advance_pc_toNat hf]; omega, hs.stack⟩

/-- A write of a return address to a stack entry keeps the invariant, whatever becomes of `sp` (R92). -/
theorem State.Inv.push (hs : s.Inv) {n : Nat} (hn : n < 16) (p : StackPointer) (hw : w.toNat ≤ 0x1000) :
    State.Inv { s with stack := s.stack.set n w hn, sp := p } := by
  refine ⟨hs.mem, hs.pc, fun k => ?_⟩
  by_cases hk : n = k.val
  · simpa [hk] using hw
  · simpa [Vector.getElem_set_ne, hk] using hs.stack k

/-- A move of `pc` from an advanced value stays within the bound of R14. -/
theorem move_le (hlo : 2 ≤ s.pc.toNat) (hhi : s.pc.toNat ≤ 0x1000)
    (hw : w.toNat ≤ 0x10FE ∨ w = s.pc ∨ w = s.pc + 2 ∨ w = s.pc - 2) : w.toNat ≤ 0x10FE := by
  obtain hw | rfl | rfl | rfl := hw
  · exact hw
  · omega
  · bv_omega
  · bv_omega

/-- An instruction keeps the invariant from an advanced `pc`, which R81 and R82 put from 2 to `0x1000`. -/
theorem Effect.inv (h : Effect s i t) (hs : s.Inv) (hlo : 2 ≤ s.pc.toNat) (hhi : s.pc.toNat ≤ 0x1000) : t.Inv := by
  cases h with
  | call h => exact (hs.push h _ hhi).writePc ((addrTarget_le _).trans (by decide))
  | ret k => exact State.Inv.writePc (hs.of_eq rfl rfl rfl) ((hs.stack k).trans (by decide))
  | move w _ hw => exact hs.writePc (move_le hlo hhi hw)
  | storeBcd h => exact hs.writeMem (writeBlock_wf hs.mem h)
  | dump h => exact hs.writeMem (writeBlock_wf hs.mem h)
  | _ => exact hs.of_eq rfl rfl rfl

/-- Settles O10, case by case of what a step can do: the invariant goes through the advance, the effect of the instruction and
the end of the tick. -/
theorem stepKeepsMachineInvariant : Obligations.StepKeepsMachineInvariant := by
  intro s t hs h
  obtain ⟨-, rfl⟩ | ⟨-, -, rfl⟩ | ⟨w, -, hf, -, rfl⟩ | ⟨w, i, u, -, hf, -, hu, rfl⟩ := step_cases h
  · exact hs
  · exact hs.of_eq rfl rfl rfl
  · exact (hs.advance hf).finishTick
  · have hbound := fetch_bound hf
    have hpc := advance_pc_toNat hf
    exact ((exec_effect hu).inv (hs.advance hf) (by omega) (by omega)).finishTick

/-- Settles O11: the reset state is concrete. -/
theorem resetMeetsMachineInvariant : Obligations.ResetMeetsMachineInvariant where
  mem := rfl
  pc := by decide
  stack := by decide

/-- Settles O15: each clause is what the instruction's `Effect` leaves unchanged, and the tick around it writes none of these
elements. -/
theorem onlyNamedInstructionsWrite : Obligations.OnlyNamedInstructionsWrite := by
  intro s t i hrun h
  obtain ⟨w, u, -, he, rfl⟩ := effect_of_step hrun h
  refine ⟨fun hcall hret => ?_, fun hcls hdrw => ?_, fun hldB hdump a => ?_, fun hldI haddI hldF => ?_, fun hrnd => ?_, ?_⟩
  · simpa using he.stack_eq hcall hret
  · simpa using he.fb_eq hcls hdrw
  · exact State.readByte_congr (by simpa using he.mem_eq hldB hdump) a
  · have hi : i.setsIndex = false := by
      rw [← Bool.not_eq_true, Instr.setsIndex_iff]
      rintro (⟨nnn, e⟩ | ⟨x, e⟩ | ⟨x, e⟩)
      · exact hldI nnn e
      · exact haddI x e
      · exact hldF x e
    simpa using he.i_eq hi
  · simpa using he.rndCount_eq hrnd
  · simpa using he.key_eq

/-! ## VF -/

theorem flagByte_zero_or_one (f : Bool) : flagByte f = 0 ∨ flagByte f = 1 := by
  cases f
  · exact .inl rfl
  · exact .inr rfl

/-- A register block load leaves the registers above it alone (R125). -/
theorem readV_writeRegs_above {bs : List Byte} {x : Reg} (h : bs.length ≤ x.val) : (s.writeRegs bs).readV x = s.readV x := by
  show (loadRegs s.v 0 bs)[x.val] = s.v[x.val]
  rw [loadRegs_getElem, dif_neg (by omega)]

theorem readBlock_length {m : Memory} {a n : Nat} {bs : List Byte} (h : readBlock m a n = some bs) : bs.length = n := by
  rw [(readBlock_eq_some.mp h).2, List.length_map, List.length_range]

/-- The flag writers of R12 but `DRW` write their result and flag and nothing else, whatever the operands. -/
theorem exec_of_setsResultAndFlag (hi : i.setsResultAndFlag = true) (s : State) :
    ∃ x r f, exec i s = .next (s.writeResultFlag x r f) := by
  cases i with
  | addReg | sub | subn | shr | shl => exact ⟨_, _, _, rfl⟩
  | _ => cases hi

theorem Effect.flag_of_draw {x y : Reg} {n : Nat} (h : Effect s (.drw x y n) t) :
    t = s.raise .addressOutOfRange ∨ t.readV vf = 0 ∨ t.readV vf = 1 := by
  cases h with
  | draw fb f => exact .inr (readV_writeFlag_vf (s.writeFb fb) f ▸ flagByte_zero_or_one f)
  | badAccess => exact .inl rfl
  | move _ hi | reg _ hi | result _ _ _ hi | index _ hi => cases hi

/-- An instruction that writes no flag and changes VF names it as its destination. -/
theorem Effect.dest_of_vf_ne (h : Effect s i t) (hresult : i.setsResultAndFlag = false) (hdrw : ∀ x y n, i ≠ .drw x y n)
    (hne : t.readV vf ≠ s.readV vf) : i.dest = some vf ∨ (∃ kk, i = .rnd vf kk) ∨ i = .load vf := by
  cases h with
  | draw => exact absurd rfl (hdrw _ _ _)
  | result _ _ _ hi => exact absurd (hi.symm.trans hresult) (by decide)
  | @reg _ x b hi =>
    have hx : x = vf := by_contra fun hx => hne (readV_writeV_ne s b (Ne.symm hx))
    exact .inl (hx ▸ hi)
  | @random x kk b =>
    have hx : x = vf := by_contra fun hx => hne (readV_writeV_ne s.consumeRnd b (Ne.symm hx))
    exact .inr (.inl ⟨kk, hx ▸ rfl⟩)
  | @load x bs hread =>
    have hx : x = vf := by
      by_contra hx
      have hlt : x.val < vf.val := lt_of_le_of_ne (Nat.le_of_lt_succ x.isLt) fun e => hx (Fin.ext e)
      exact hne (readV_writeRegs_above (readBlock_length hread ▸ hlt))
    exact .inr (.inr (hx ▸ rfl))
  | _ => exact absurd rfl hne

/-- Settles O16: the flag writers end in a flag, and every other effect that changes VF has it as destination. -/
theorem flagRegisterWriters : Obligations.FlagRegisterWriters := by
  intro s t i h
  refine ⟨fun hi => ?_, fun x y n hi => ?_, fun hresult hdrw hne => ?_⟩
  · obtain ⟨x, r, f, he⟩ := exec_of_setsResultAndFlag ((Instr.setsResultAndFlag_iff i).mpr hi) s
    obtain rfl := Host.Outcome.next.inj (h.symm.trans he)
    exact readV_writeResultFlag_vf s x r f ▸ flagByte_zero_or_one f
  · subst hi
    exact (exec_effect h).flag_of_draw
  · have hi : i.setsResultAndFlag = false := by
      rw [← Bool.not_eq_true, Instr.setsResultAndFlag_iff]
      rintro ⟨x, y, hi⟩
      have := hresult x y
      tauto
    obtain hdest | ⟨kk, rfl⟩ | rfl := (exec_effect h).dest_of_vf_ne hi hdrw hne
    · obtain ⟨kk, hi⟩ | hi | hi | hi := Instr.dest_eq_some hdest
      · exact .inl ⟨kk, hi.imp_right .inl⟩
      · exact .inr (.inl hi)
      · exact .inr (.inr (.inl hi))
      · exact .inr (.inr (.inr (.inl hi)))
    · exact .inl ⟨kk, .inr (.inr rfl)⟩
    · exact .inr (.inr (.inr (.inr rfl)))

end Sys2Proof.Machine
end

section
/-! What no instruction reads: the stack (but `CALL` and `RET`), `ST` and the old `IR`. -/

namespace Sys2Proof.Machine

open Sys2Proof

/-- The stack and `ST` replaced by functions of themselves: two elements that a state can change without any instruction but
`CALL`, `RET` and `LD ST, Vx` telling. -/
def State.mapHidden (s : State) (k : Vector Word Config.stackDepth → Vector Word Config.stackDepth) (f : Byte → Byte) : State :=
  { s with stack := k s.stack, st := f s.st }

variable {s s' t u : State} {i : Instr} {w : Word}
variable (k : Vector Word Config.stackDepth → Vector Word Config.stackDepth) (f : Byte → Byte)

@[simp] theorem mapHidden_mem : (s.mapHidden k f).mem = s.mem := rfl
@[simp] theorem mapHidden_fb : (s.mapHidden k f).fb = s.fb := rfl
@[simp] theorem mapHidden_pc : (s.mapHidden k f).pc = s.pc := rfl
@[simp] theorem mapHidden_halted : (s.mapHidden k f).halted = s.halted := rfl
@[simp] theorem mapHidden_base : (s.mapHidden k f).base = s.base := rfl
@[simp] theorem mapHidden_readV (x : Reg) : (s.mapHidden k f).readV x = s.readV x := rfl
@[simp] theorem mapHidden_regsUpTo (x : Reg) : (s.mapHidden k f).regsUpTo x = s.regsUpTo x := rfl
@[simp] theorem mapHidden_spriteRow (y : Reg) : (s.mapHidden k f).spriteRow y = s.spriteRow y := rfl
@[simp] theorem mapHidden_spriteColumn (x : Reg) : (s.mapHidden k f).spriteColumn x = s.spriteColumn x := rfl
@[simp] theorem mapHidden_lowestKey : (s.mapHidden k f).lowestKey = s.lowestKey := rfl
@[simp] theorem raise_mapHidden (c : Cause) : (s.mapHidden k f).raise c = (s.raise c).mapHidden k f := rfl
@[simp] theorem writeMem_mapHidden (m : Memory) : (s.mapHidden k f).writeMem m = (s.writeMem m).mapHidden k f := rfl
@[simp] theorem writeRegs_mapHidden (bs : List Byte) : (s.mapHidden k f).writeRegs bs = (s.writeRegs bs).mapHidden k f := rfl
@[simp] theorem writeV_mapHidden (x : Reg) (b : Byte) : (s.mapHidden k f).writeV x b = (s.writeV x b).mapHidden k f := rfl
@[simp] theorem writePc_mapHidden (w : Word) : (s.mapHidden k f).writePc w = (s.writePc w).mapHidden k f := rfl
@[simp] theorem writeFb_mapHidden (fb : Framebuffer) : (s.mapHidden k f).writeFb fb = (s.writeFb fb).mapHidden k f := rfl
@[simp] theorem writeFlag_mapHidden (b : Bool) : (s.mapHidden k f).writeFlag b = (s.writeFlag b).mapHidden k f := rfl

theorem skipIf_mapHidden (c : Bool) : (s.mapHidden k f).skipIf c = (s.skipIf c).mapHidden k f := by
  cases c <;> rfl

/-- Every instruction but `CALL`, `RET` and `LD ST, Vx` does the same whatever the stack and `ST` hold, and leaves them. -/
theorem exec_mapHidden (hcall : ∀ nnn, i ≠ .call nnn) (hret : i ≠ .ret) (hst : ∀ x, i ≠ .ldStVx x)
    (h : exec i s = .next t) : exec i (s.mapHidden k f) = .next (t.mapHidden k f) := by
  cases i with
  | call nnn => exact absurd rfl (hcall nnn)
  | ret => exact absurd rfl hret
  | ldStVx x => exact absurd rfl (hst x)
  | seImm | sneImm | seReg | sneReg | skp | sknp =>
    obtain rfl := Host.Outcome.next.inj h
    exact congrArg _ (skipIf_mapHidden k f _)
  | drw x y n =>
    cases hread : readBlock s.mem s.base n <;> simp_all [exec, execDrw]
  | ldB x => cases hwrite : writeBlock s.mem s.base (bcdDigits (s.readV x)) <;> simp_all [exec, execLdB]
  | dump x => cases hwrite : writeBlock s.mem s.base (s.regsUpTo x) <;> simp_all [exec, execDump]
  | load x => cases hread : readBlock s.mem s.base (x.val + 1) <;> simp_all [exec, execLoad]
  | ldVxK x => cases hkey : s.lowestKey <;> simp_all [exec, execLdVxK]
  | _ =>
    obtain rfl := Host.Outcome.next.inj h
    rfl

/-! ## A relation that every tick keeps -/

/-- What makes a relation of states one that a tick keeps: related states halt and fetch alike, and each part of a tick takes
related states to related states. -/
structure Simulation (R : State → State → Prop) : Prop where
  halted : ∀ {s s' : State}, R s s' → s'.halted = s.halted
  fetch : ∀ {s s' : State}, R s s' → s'.fetch = s.fetch
  raise : ∀ {s s' : State} (c : Cause), R s s' → R (s.raise c) (s'.raise c)
  advance : ∀ {s s' : State} (w : Word), R s s' → R (s.advance w) (s'.advance w)
  exec : ∀ {s s' t : State} {i : Instr}, R s s' → exec i s = .next t → ∃ t', exec i s' = .next t' ∧ R t t'
  finishTick : ∀ {s s' : State}, R s s' → R s.finishTick s'.finishTick

theorem Simulation.step {R : State → State → Prop} (hR : Simulation R) (hs : R s s') (h : step s = .next t) :
    ∃ t', step s' = .next t' ∧ R t t' := by
  obtain ⟨hh, rfl⟩ | ⟨hh, hf, rfl⟩ | ⟨w, hh, hf, hd, rfl⟩ | ⟨w, i, u, hh, hf, hd, hu, rfl⟩ := step_cases h
  · exact ⟨s', step_of_halted ((hR.halted hs).trans hh), hs⟩
  · exact ⟨_, step_of_fetch_none ((hR.halted hs).trans hh) ((hR.fetch hs).trans hf), hR.raise _ hs⟩
  · refine ⟨_, ?_, hR.finishTick (hR.advance w hs)⟩
    rw [step_of_fetch ((hR.halted hs).trans hh) ((hR.fetch hs).trans hf), executeIr_of_undefined hd, endTick_next]
  · obtain ⟨u', hu', hru⟩ := hR.exec (hR.advance w hs) hu
    refine ⟨_, ?_, hR.finishTick hru⟩
    rw [step_of_fetch ((hR.halted hs).trans hh) ((hR.fetch hs).trans hf), executeIr_of_decode hd, hu', endTick_next]

/-! ## Stale stack entries -/

/-- Agreement on the live stack is another stack with the same live entries. -/
theorem agreeOnLiveStack_iff : AgreeOnLiveStack s s' ↔
    ∃ a : Vector Word Config.stackDepth, s' = s.mapHidden (fun _ => a) id ∧
      ∀ k : Fin 16, k.val < s.sp.val → a[k] = s.stack[k] := by
  constructor
  · rintro ⟨hrest, hlive⟩
    exact ⟨s'.stack, by rw [← hrest]; rfl, hlive⟩
  · rintro ⟨a, rfl, hlive⟩
    exact ⟨rfl, hlive⟩

theorem finishTick_mapHidden_stack : (s.mapHidden k id).finishTick = s.finishTick.mapHidden k id := by
  unfold State.finishTick
  rw [mapHidden_halted]
  split <;> rfl

/-- `CALL` overwrites the first stale entry: the entries it leaves live agree (R15, R92). -/
theorem agree_call {nnn : Addr} (hs : AgreeOnLiveStack s s') (h : exec (.call nnn) s = .next t) :
    ∃ t', exec (.call nnn) s' = .next t' ∧ AgreeOnLiveStack t t' := by
  obtain ⟨a, rfl, ha⟩ := agreeOnLiveStack_iff.mp hs
  obtain hlt | hfull := sp_lt_or_full s
  · obtain rfl := Host.Outcome.next.inj ((exec_call_of_lt nnn hlt).symm.trans h)
    refine ⟨_, exec_call_of_lt (s := s.mapHidden _ _) nnn hlt, rfl, fun j hj => ?_⟩
    have hj' : j.val < s.sp.val + 1 := hj
    show (a.set s.sp.val s.pc hlt)[j] = (s.stack.set s.sp.val s.pc hlt)[j]
    by_cases he : s.sp.val = j.val
    · simp [he]
    · simpa [Vector.getElem_set_ne, he] using ha j (by omega)
  · obtain rfl := Host.Outcome.next.inj ((exec_call_of_full nnn hfull).symm.trans h)
    exact ⟨_, exec_call_of_full (s := s.mapHidden _ _) nnn hfull, rfl, ha⟩

/-- `RET` reads a live entry and makes it stale (R15, R90). -/
theorem agree_ret (hs : AgreeOnLiveStack s s') (h : exec .ret s = .next t) :
    ∃ t', exec .ret s' = .next t' ∧ AgreeOnLiveStack t t' := by
  obtain ⟨a, rfl, ha⟩ := agreeOnLiveStack_iff.mp hs
  obtain hempty | ⟨j, hj⟩ := sp_zero_or_succ s
  · obtain rfl := Host.Outcome.next.inj ((exec_ret_of_empty hempty).symm.trans h)
    exact ⟨_, exec_ret_of_empty (s := s.mapHidden _ _) hempty, rfl, ha⟩
  · obtain rfl := Host.Outcome.next.inj ((exec_ret_of_succ j hj).symm.trans h)
    refine ⟨_, exec_ret_of_succ (s := s.mapHidden _ _) j hj, agreeOnLiveStack_iff.mpr ⟨a, ?_, fun l hl => ha l ?_⟩⟩
    · rw [show (s.mapHidden (fun _ => a) id).stack[j] = s.stack[j] from ha j (by omega)]
      rfl
    · have hlj : l.val < j.val := hl
      omega

theorem agree_exec (hs : AgreeOnLiveStack s s') (h : exec i s = .next t) :
    ∃ t', exec i s' = .next t' ∧ AgreeOnLiveStack t t' := by
  by_cases hcall : ∃ nnn, i = .call nnn
  · obtain ⟨nnn, rfl⟩ := hcall
    exact agree_call hs h
  by_cases hret : i = .ret
  · subst hret
    exact agree_ret hs h
  have hcall' : ∀ nnn, i ≠ .call nnn := fun nnn e => hcall ⟨nnn, e⟩
  obtain ⟨a, rfl, ha⟩ := agreeOnLiveStack_iff.mp hs
  obtain ⟨hsp, hstack⟩ := (exec_effect h).stack_eq hcall' hret
  have hagree : AgreeOnLiveStack t (t.mapHidden (fun _ => a) id) := ⟨rfl, by rwa [hsp, hstack]⟩
  by_cases hst : ∃ x, i = .ldStVx x
  · obtain ⟨x, rfl⟩ := hst
    obtain rfl := Host.Outcome.next.inj h
    exact ⟨_, rfl, hagree⟩
  · exact ⟨_, exec_mapHidden _ _ hcall' hret (fun x e => hst ⟨x, e⟩) h, hagree⟩

theorem agreeOnLiveStack_simulation : Simulation AgreeOnLiveStack where
  halted h := by obtain ⟨a, rfl, -⟩ := agreeOnLiveStack_iff.mp h; rfl
  fetch h := by obtain ⟨a, rfl, -⟩ := agreeOnLiveStack_iff.mp h; rfl
  raise c h := by obtain ⟨a, rfl, ha⟩ := agreeOnLiveStack_iff.mp h; exact ⟨rfl, ha⟩
  advance w h := by obtain ⟨a, rfl, ha⟩ := agreeOnLiveStack_iff.mp h; exact ⟨rfl, ha⟩
  exec := agree_exec
  finishTick h := by
    obtain ⟨a, rfl, ha⟩ := agreeOnLiveStack_iff.mp h
    exact agreeOnLiveStack_iff.mpr ⟨a, finishTick_mapHidden_stack _, by simpa using ha⟩

/-- Settles O17: agreement on the live stack is a simulation of every part of the tick. -/
theorem staleStackEntriesAreUnobservable : Obligations.StaleStackEntriesAreUnobservable :=
  fun _ _ _ hs h => agreeOnLiveStack_simulation.step hs h

/-! ## The sound timer -/

/-- The two states agree on everything but `ST`. -/
def AgreeButSt (s s' : State) : Prop := { s' with st := s.st } = s

theorem agreeButSt_iff : AgreeButSt s s' ↔ ∃ b, s' = s.mapHidden id fun _ => b := by
  constructor
  · intro h
    exact ⟨s'.st, by rw [← h]; rfl⟩
  · rintro ⟨b, rfl⟩
    rfl

theorem agreeButSt_exec (hs : AgreeButSt s s') (h : exec i s = .next t) :
    ∃ t', exec i s' = .next t' ∧ AgreeButSt t t' := by
  obtain ⟨b, rfl⟩ := agreeButSt_iff.mp hs
  by_cases hplain : (∀ nnn, i ≠ .call nnn) ∧ i ≠ .ret ∧ ∀ x, i ≠ .ldStVx x
  · obtain ⟨hcall, hret, hst⟩ := hplain
    exact ⟨_, exec_mapHidden _ _ hcall hret hst h, rfl⟩
  cases i with
  | call nnn =>
    obtain hlt | hfull := sp_lt_or_full s
    · obtain rfl := Host.Outcome.next.inj ((exec_call_of_lt nnn hlt).symm.trans h)
      exact ⟨_, exec_call_of_lt (s := s.mapHidden _ _) nnn hlt, rfl⟩
    · obtain rfl := Host.Outcome.next.inj ((exec_call_of_full nnn hfull).symm.trans h)
      exact ⟨_, exec_call_of_full (s := s.mapHidden _ _) nnn hfull, rfl⟩
  | ret =>
    obtain hempty | ⟨j, hj⟩ := sp_zero_or_succ s
    · obtain rfl := Host.Outcome.next.inj ((exec_ret_of_empty hempty).symm.trans h)
      exact ⟨_, exec_ret_of_empty (s := s.mapHidden _ _) hempty, rfl⟩
    · obtain rfl := Host.Outcome.next.inj ((exec_ret_of_succ j hj).symm.trans h)
      exact ⟨_, exec_ret_of_succ (s := s.mapHidden _ _) j hj, rfl⟩
  | ldStVx x =>
    obtain rfl := Host.Outcome.next.inj h
    exact ⟨_, rfl, rfl⟩
  | _ => exact absurd ⟨nofun, nofun, nofun⟩ hplain

theorem agreeButSt_simulation : Simulation AgreeButSt where
  halted h := by obtain ⟨b, rfl⟩ := agreeButSt_iff.mp h; rfl
  fetch h := by obtain ⟨b, rfl⟩ := agreeButSt_iff.mp h; rfl
  raise c h := by obtain ⟨b, rfl⟩ := agreeButSt_iff.mp h; rfl
  advance w h := by obtain ⟨b, rfl⟩ := agreeButSt_iff.mp h; rfl
  exec := agreeButSt_exec
  finishTick h := by
    obtain ⟨b, rfl⟩ := agreeButSt_iff.mp h
    unfold State.finishTick
    rw [mapHidden_halted]
    split <;> rfl

/-- Settles O19: agreement on all but `ST` is a simulation of every part of the tick. -/
theorem soundTimerIsReadByNothing : Obligations.SoundTimerIsReadByNothing :=
  fun s _ b h => agreeButSt_simulation.step (s := s) (s' := { s with st := b }) rfl h

/-- Settles O18: the advance overwrites `IR` before anything reads it. -/
theorem instructionRegisterIsEphemeral : Obligations.InstructionRegisterIsEphemeral := by
  intro s w hfault hpc
  obtain ⟨w', hf⟩ := Option.ne_none_iff_exists'.mp (mt fetch_eq_none.mp (Nat.not_lt.mpr hpc))
  have hh : s.halted = false := (State.halted_eq_false s).mpr hfault
  rw [step_of_fetch hh hf, step_of_fetch (s := { s with ir := w }) hh hf]
  rfl

end Sys2Proof.Machine
end

section
/-! The reset state and the host's read of the framebuffer. -/

namespace Sys2Proof.Machine

open Sys2Proof

/-- Outside the font the reset contents are zero (R29, R22). -/
theorem resetByte_outside_font {a : Nat} (h : a < 0x050 ∨ 0x09F < a) : resetByte a = 0 := by
  unfold resetByte
  split
  next hbase =>
    have hlen : fontTable.length ≤ a - fontBase := by
      show 80 ≤ a - 0x050
      have : 0x050 ≤ a := hbase
      omega
    exact List.getD_eq_default _ _ hlen
  next => rfl

theorem reset_readByte {a : Nat} (h : a ≤ 0xFFF) : State.reset.readByte a = some (resetByte a) := by
  rw [readByte_eq, if_pos h]; rfl

/-- Settles O48: the fields compute, and a byte is the font's or zero by `resetByte_outside_font`. -/
theorem resetValues : Obligations.ResetValues := by
  refine ⟨by decide, rfl, rfl, rfl, by decide, rfl, rfl, pixel_blank, by decide, rfl, fun a ha => ?_, fun a ha => ?_, ?_⟩
  · rw [reset_readByte (by omega), resetByte_outside_font (by omega)]
  · rw [readByte_eq, if_neg (by omega)]
  · rfl

/-- The host's read is the concatenation of the rows. -/
theorem framebufferRead_eq (s : State) : s.framebufferRead = s.fb.flatten.toList := by
  simp [State.framebufferRead, Vector.flatten, Vector.toList, List.flatMap, Function.comp_def]

/-- Settles O50: element `r * 64 + c` of the flattened rows is element `c` of row `r`. -/
theorem framebufferReadIsRowMajor : Obligations.FramebufferReadIsRowMajor := by
  intro s
  rw [framebufferRead_eq]
  refine ⟨Vector.length_toList .., fun r c hr hc => ?_⟩
  have hdiv : (r * 64 + c) / 64 = r := by omega
  have hmod : (r * 64 + c) % 64 = c := by omega
  have hlt : r * 64 + c < 32 * 64 := by omega
  rw [Vector.getElem?_toList, Vector.getElem?_eq_getElem hlt, Vector.getElem_flatten]
  simp [hdiv, hmod, Framebuffer.pixel, hr, hc]

end Sys2Proof.Machine
end

section
/-! The memory a register dump leaves (R124), and a fetch from it (R52). -/

namespace Sys2Proof.Machine

open Sys2Proof

variable {s : State}

/-- A dump whose block lies in memory stores it (R124, R49). -/
theorem exec_dump_of_in_range (x : Reg) (h : s.i.toNat + x.val ≤ 0xFFF) :
    exec (.dump x) s = .next (s.writeMem (s.mem.setBlock s.i.toNat (s.regsUpTo x))) := by
  have hok : rangeOk s.base (s.regsUpTo x).length = true := by
    rw [rangeOk_iff, regsUpTo_length]
    exact .inr h
  rw [exec, execDump, writeBlock_eq_some.mpr ⟨hok, rfl⟩]
  rfl

/-- The byte at `a + k` of a register block stored at `a` is `V[k]` (R124). -/
theorem get_setBlock_regsUpTo (m : Memory) (a : Nat) {k x : Reg} (hk : k ≤ x) :
    (m.setBlock a (s.regsUpTo x)).get (a + k.val) = s.readV k := by
  have hlen : k.val < (s.regsUpTo x).length := by
    rw [regsUpTo_length]
    exact Nat.lt_succ_of_le hk
  rw [Memory.get_setBlock_inside _ _ _ _ hlen, regsUpTo_getElem _ _ _ _ k.isLt]

/-- Settles O41: the fetch reads the cells at `I + j` and `I + j + 1`, and the dump has put `V[j]` and `V[k]` there. -/
theorem storeIsSeenByFetch : Obligations.StoreIsSeenByFetch := by
  intro x j k s t hrange hexec hkj hkx
  obtain rfl := Host.Outcome.next.inj ((exec_dump_of_in_range x hrange).symm.trans hexec)
  have hkx' : k.val ≤ x.val := hkx
  have hjx : j ≤ x := Fin.le_def.mpr (by omega)
  have hpc : (BitVec.ofNat 16 (s.i.toNat + j.val)).toNat = s.i.toNat + j.val :=
    Nat.mod_eq_of_lt (by omega)
  have hnext : s.i.toNat + j.val + 1 = s.i.toNat + k.val := by omega
  rw [fetch_eq, hpc, if_pos (by omega), hnext, State.writeMem_mem, get_setBlock_regsUpTo _ _ hjx,
    get_setBlock_regsUpTo _ _ hkx]

end Sys2Proof.Machine
end

section
/-! The encoder and the decoder are inverse (R61 to R66): a decoded word is put together again from its fields. -/

namespace Sys2Proof

variable {w : Word} {i : Instr} {f : BitVec 4} {n : BitVec 4} {kk : Byte} {nnn : Addr}

/-- Settles O1: the twelve words are literal. -/
theorem opcodeWordsDecode : Obligations.OpcodeWordsDecode := by
  unfold Obligations.OpcodeWordsDecode
  decide

/-- Settles O2, format by format: the decoder reads the family, the key and the operands back from the fields they were written
to. -/
theorem decodeEncodeRoundTrip : Obligations.DecodeEncodeRoundTrip := by
  intro i hwf
  cases i with
  | cls | ret => rfl
  | jp | call | ldI | jpV0 | seImm | sneImm | ldImm | addImm | rnd | seReg | sneReg => simp [encode, decodeWord]
  | drw x y n =>
    have hn : n < 16 := of_decide_eq_true hwf
    simp [encode, decodeWord, Nat.mod_eq_of_lt hn]
  | ldReg | orReg | andReg | xorReg | addReg | sub | shr | subn | shl => simp [encode, decodeWord, decodeFamily8]
  | skp | sknp => simp [encode, decodeWord, decodeFamilyE, secondaryKey]
  | ldVxDt | ldVxK | ldDtVx | ldStVx | addI | ldF | ldB | dump | load => simp [encode, decodeWord, decodeFamilyF]

/-! ## A word from its fields -/

theorem encodeNnn_fields (hf : (familyField w).toNat = f.toNat) : encodeNnn f (nnnField w) = w := by
  apply BitVec.eq_of_toNat_eq
  rw [encodeNnn_toNat, ← hf, familyField_toNat, nnnField_toNat]; omega

theorem encodeXkk_fields (hf : (familyField w).toNat = f.toNat) : encodeXkk f (xField w) (kkField w) = w := by
  apply BitVec.eq_of_toNat_eq
  rw [encodeXkk_toNat, ← hf, familyField_toNat, xField_val, kkField_toNat]; omega

theorem encodeXyn_fields (hf : (familyField w).toNat = f.toNat) : encodeXyn f (xField w) (yField w) (nField w) = w := by
  apply BitVec.eq_of_toNat_eq
  rw [encodeXyn_toNat, ← hf, familyField_toNat, xField_val, yField_val, nField_toNat]; omega

theorem encodeNnn_of_key (hf : (familyField w).toNat = f.toNat) (hkey : (nnnField w).toNat = nnn.toNat) : encodeNnn f nnn = w := by
  rw [← BitVec.eq_of_toNat_eq hkey, encodeNnn_fields hf]

theorem encodeXkk_of_key (hf : (familyField w).toNat = f.toNat) (hkey : (kkField w).toNat = kk.toNat) :
    encodeXkk f (xField w) kk = w := by
  rw [← BitVec.eq_of_toNat_eq hkey, encodeXkk_fields hf]

theorem encodeXyn_of_key (hf : (familyField w).toNat = f.toNat) (hkey : (nField w).toNat = n.toNat) :
    encodeXyn f (xField w) (yField w) n = w := by
  rw [← BitVec.eq_of_toNat_eq hkey, encodeXyn_fields hf]

theorem and_FFF0_toNat (w : Word) : (w &&& 0xFFF0#16).toNat = w.toNat / 16 * 16 := by
  have h : w &&& 0xFFF0#16 = (w >>> 4) <<< 4 := by
    ext i hi
    interval_cases i <;> simp [BitVec.getLsbD_eq_getElem]
  have := w.isLt
  rw [h]
  simp [Nat.shiftLeft_eq, Nat.shiftRight_eq_div_pow]; omega

/-- Format XYN with low nibble 0, the canonical spelling of families 5 and 9 (R64). -/
theorem encodeXyn_zero (hf : (familyField w).toNat = f.toNat) : encodeXyn f (xField w) (yField w) 0 = w &&& 0xFFF0#16 := by
  apply BitVec.eq_of_toNat_eq
  rw [encodeXyn_toNat, and_FFF0_toNat, ← hf, familyField_toNat, xField_val, yField_val, show (0 : BitVec 4).toNat = 0 from rfl]
  omega

/-! ## What a decoded word encodes -/

theorem encode_of_decodeFamily0 (hf : (familyField w).toNat = 0x0) (h : decodeFamily0 w = some i) :
    i.wellFormed = true ∧ encode i = w := by
  simp only [decodeFamily0, secondaryKey] at h
  split at h <;> cases h <;> exact ⟨rfl, encodeNnn_of_key hf ‹_›⟩

theorem encode_of_decodeFamily8 (hf : (familyField w).toNat = 0x8) (h : decodeFamily8 w = some i) :
    i.wellFormed = true ∧ encode i = w := by
  unfold decodeFamily8 at h
  split at h <;> cases h <;> exact ⟨rfl, encodeXyn_of_key hf ‹_›⟩

theorem encode_of_decodeFamilyE (hf : (familyField w).toNat = 0xE) (h : decodeFamilyE w = some i) :
    i.wellFormed = true ∧ encode i = w := by
  simp only [decodeFamilyE, secondaryKey] at h
  split at h <;> cases h <;> exact ⟨rfl, encodeXkk_of_key hf ‹_›⟩

theorem encode_of_decodeFamilyF (hf : (familyField w).toNat = 0xF) (h : decodeFamilyF w = some i) :
    i.wellFormed = true ∧ encode i = w := by
  unfold decodeFamilyF at h
  split at h <;> cases h <;> exact ⟨rfl, encodeXkk_of_key hf ‹_›⟩

/-- In the families whose low nibble is not decoded (R64). -/
theorem encode_of_decodeWord_xyn (hfam : (familyField w).toNat = 5 ∨ (familyField w).toNat = 9) (h : decodeWord w = some i) :
    i.wellFormed = true ∧ i.row.mask = 0xF000#16 ∧ encode i = w &&& 0xFFF0#16 := by
  obtain hf | hf := hfam
  all_goals
    simp only [decodeWord, hf, Option.some.injEq] at h
    subst h
    exact ⟨rfl, rfl, encodeXyn_zero hf⟩

/-- In every other family the word is put together again from its fields, down to the case of one format. -/
theorem encode_of_decodeWord (hfam : ¬((familyField w).toNat = 5 ∨ (familyField w).toNat = 9)) (h : decodeWord w = some i) :
    i.wellFormed = true ∧ encode i = w := by
  unfold decodeWord at h
  split at h
  case h_1 hf => exact encode_of_decodeFamily0 hf h
  case h_9 hf => exact encode_of_decodeFamily8 hf h
  case h_15 hf => exact encode_of_decodeFamilyE hf h
  case h_16 hf => exact encode_of_decodeFamilyF hf h
  case h_6 hf => exact absurd (.inl hf) hfam
  case h_10 hf => exact absurd (.inr hf) hfam
  case h_2 hf | h_3 hf | h_11 hf | h_12 hf => cases h; exact ⟨rfl, encodeNnn_fields hf⟩
  case h_4 hf | h_5 hf | h_7 hf | h_8 hf | h_13 hf => cases h; exact ⟨rfl, encodeXkk_fields hf⟩
  case h_14 hf =>
    cases h
    refine ⟨decide_eq_true (nField w).isLt, ?_⟩
    rw [encode, BitVec.ofNat_toNat, BitVec.setWidth_eq, encodeXyn_fields hf]
  case h_17 => cases h

/-- Settles O3, by the two kinds of families. -/
theorem encodeDecodeCanonical : Obligations.EncodeDecodeCanonical := by
  intro w i h
  rw [← familyField_toNat]
  split
  next hfam =>
    obtain ⟨-, -, henc⟩ := encode_of_decodeWord_xyn hfam h
    exact henc
  next hfam => exact (encode_of_decodeWord hfam h).2

theorem wellFormed_of_decodeWord (h : decodeWord w = some i) : i.wellFormed = true := by
  by_cases hfam : (familyField w).toNat = 5 ∨ (familyField w).toNat = 9
  · exact (encode_of_decodeWord_xyn hfam h).1
  · exact (encode_of_decodeWord hfam h).1

end Sys2Proof
end

section
/-! The two-level decode is the opcode map (R64 to R66), and what no row matches is a no-op (R68). -/

namespace Sys2Proof

open Machine

variable {w : Word} {i : Instr} {r r' : OpcodeRow}

/-! ## The rows a word selects -/

theorem row_mem_opcodeMap (i : Instr) : i.row ∈ opcodeMap := by
  cases i <;> simp [Instr.row, opcodeMap]

theorem exists_row_of_mem (h : r ∈ opcodeMap) : ∃ i : Instr, i.row = r := by
  obtain ⟨i, -, hi⟩ := List.mem_map.mp h
  exact ⟨i, hi⟩

theorem encode_selects_row (i : Instr) (hwf : i.wellFormed = true) : i.row.selects (encode i) = true := by
  revert hwf
  open Laws.EncodeSelectsRow in
  cases i
  exacts [cls, ret, jp _, call _, seImm _ _, sneImm _ _, seReg _ _, ldImm _ _, addImm _ _, ldReg _ _, orReg _ _, andReg _ _,
    xorReg _ _, addReg _ _, sub _ _, shr _ _, subn _ _, shl _ _, sneReg _ _, ldI _, jpV0 _, rnd _ _, drw _ _ _, skp _, sknp _,
    ldVxDt _, ldVxK _, ldDtVx _, ldStVx _, addI _, ldF _, ldB _, dump _, load _]

/-- The row of the decoded instruction does not mask the nibble that the encoder clears. -/
theorem selects_of_decodeWord (h : decodeWord w = some i) : i.row.selects w = true := by
  have hsel := encode_selects_row i (wellFormed_of_decodeWord h)
  by_cases hfam : (familyField w).toNat = 5 ∨ (familyField w).toNat = 9
  · obtain ⟨-, hmask, henc⟩ := encode_of_decodeWord_xyn hfam h
    rw [henc, OpcodeRow.selects, BitVec.and_assoc, hmask] at hsel
    rw [OpcodeRow.selects, hmask]
    exact hsel
  · rwa [(encode_of_decodeWord hfam h).2] at hsel

/-- Two rows of R66 differ in a bit that both fix. -/
theorem opcodeMap_disjoint : ∀ r ∈ opcodeMap, ∀ r' ∈ opcodeMap, r.pattern &&& r'.mask = r'.pattern &&& r.mask → r = r' := by
  decide

theorem row_unique (hr : r ∈ opcodeMap) (hr' : r' ∈ opcodeMap) (hw : r.selects w = true) (hw' : r'.selects w = true) :
    r = r' := by
  apply opcodeMap_disjoint r hr r' hr'
  rw [← beq_iff_eq.mp hw, ← beq_iff_eq.mp hw', BitVec.and_assoc, BitVec.and_assoc, BitVec.and_comm r.mask]

/-! ## The words that select no row -/

theorem eq_of_selects (hmask : r.mask = BitVec.allOnes 16) (h : r.selects w = true) : w = r.pattern := by
  rw [← beq_iff_eq.mp h, hmask, BitVec.and_allOnes]

theorem family_of_selects (hmask : r.mask = 0xF000#16) (h : r.selects w = true) : w.toNat / 4096 = r.pattern.toNat / 4096 := by
  have hp := congrArg BitVec.toNat (beq_iff_eq.mp h)
  rw [hmask, Laws.EncodeSelectsRow.and_F000_toNat] at hp
  omega

theorem family_nibble_of_selects (hmask : r.mask = 0xF00F#16) (h : r.selects w = true) :
    w.toNat / 4096 = r.pattern.toNat / 4096 ∧ w.toNat % 16 = r.pattern.toNat % 16 := by
  have hp := congrArg BitVec.toNat (beq_iff_eq.mp h)
  rw [hmask, Laws.EncodeSelectsRow.and_F00F_toNat] at hp
  omega

theorem family_byte_of_selects (hmask : r.mask = 0xF0FF#16) (h : r.selects w = true) :
    w.toNat / 4096 = r.pattern.toNat / 4096 ∧ w.toNat % 256 = r.pattern.toNat % 256 := by
  have hp := congrArg BitVec.toNat (beq_iff_eq.mp h)
  rw [hmask, Laws.EncodeSelectsRow.and_F0FF_toNat] at hp
  omega

theorem decodeFamily0_eq_none : decodeFamily0 w = none ↔ w.toNat % 4096 ≠ 0x0E0 ∧ w.toNat % 4096 ≠ 0x0EE := by
  simp only [decodeFamily0, secondaryKey, nnnField_toNat]
  split <;> simp_all

theorem decodeFamily8_eq_none : decodeFamily8 w = none ↔ w.toNat % 16 ∈ [0x8, 0x9, 0xA, 0xB, 0xC, 0xD, 0xF] := by
  simp only [decodeFamily8, nField_toNat]
  split
  case h_10 =>
    simp only [imp_false, List.mem_cons, List.not_mem_nil, or_false, true_iff] at *
    omega
  all_goals simp [*]

theorem decodeFamilyE_eq_none : decodeFamilyE w = none ↔ w.toNat % 256 ∉ [0x9E, 0xA1] := by
  simp only [decodeFamilyE, secondaryKey, kkField_toNat]
  split <;> simp_all

theorem decodeFamilyF_eq_none :
    decodeFamilyF w = none ↔ w.toNat % 256 ∉ [0x07, 0x0A, 0x15, 0x18, 0x1E, 0x29, 0x33, 0x55, 0x65] := by
  simp only [decodeFamilyF, kkField_toNat]
  split <;> simp_all

/-- The decoder's undefined words are the ones R68 lists: the four families with a secondary key have them, the others decode
whole. -/
theorem decodeWord_eq_none : decodeWord w = none ↔ UndefinedWord w := by
  unfold decodeWord UndefinedWord
  rw [familyField_toNat]
  split
  case h_1 hf => simp [hf, decodeFamily0_eq_none]
  case h_9 hf => simp [hf, decodeFamily8_eq_none]
  case h_15 hf => simp [hf, decodeFamilyE_eq_none]
  case h_16 hf => simp [hf, decodeFamilyF_eq_none]
  case h_17 =>
    have := w.isLt
    simp only [imp_false] at *
    omega
  all_goals simp [*]

/-- A row fixes the family and the whole key of the family, so a word that selects one is not in the list of R68. -/
theorem not_undefined_of_selects (i : Instr) (h : i.row.selects w = true) : ¬UndefinedWord w := by
  unfold UndefinedWord
  cases i with
  | cls | ret =>
    obtain rfl := eq_of_selects rfl h
    decide
  | ldReg | orReg | andReg | xorReg | addReg | sub | shr | subn | shl =>
    simp [family_nibble_of_selects rfl h, Instr.row]
  | skp | sknp | ldVxDt | ldVxK | ldDtVx | ldStVx | addI | ldF | ldB | dump | load =>
    simp [family_byte_of_selects rfl h, Instr.row]
  | _ => simp [family_of_selects rfl h, Instr.row]

theorem decodeWord_eq_none_iff_no_row : decodeWord w = none ↔ ∀ r ∈ opcodeMap, r.selects w = false := by
  constructor
  · intro h r hr
    obtain ⟨i, rfl⟩ := exists_row_of_mem hr
    exact Bool.eq_false_iff.mpr fun hsel => not_undefined_of_selects i hsel (decodeWord_eq_none.mp h)
  · intro h
    refine Option.eq_none_iff_forall_ne_some.mpr fun i hi => ?_
    simpa [selects_of_decodeWord hi] using h i.row (row_mem_opcodeMap i)

/-- Settles O4: a decoded word selects its instruction's row, two rows of the map share no word, and a word that selects a row
decodes. -/
theorem decodeFollowsOpcodeMap : Obligations.DecodeFollowsOpcodeMap := by
  refine fun w => ⟨fun i h => ⟨wellFormed_of_decodeWord h, row_mem_opcodeMap i, fun r hr => ?_⟩, decodeWord_eq_none_iff_no_row⟩
  have hsel := selects_of_decodeWord h
  constructor
  · exact fun hr' => row_unique hr (row_mem_opcodeMap i) hr' hsel
  · rintro rfl
    exact hsel

end Sys2Proof

namespace Sys2Proof.Machine

variable {s : State} {w : Word}

/-- The tick of an undefined word: the advance and the timers (R68). -/
theorem step_of_undefined (hfault : s.fault = .none) (hf : s.fetch = some w) (hd : decodeWord w = none) :
    step s = .next (s.advance w).timerTick := by
  have hh : s.halted = false := (State.halted_eq_false s).mpr hfault
  rw [step_of_fetch hh hf, executeIr_of_undefined hd, endTick_next, State.finishTick,
    State.halted_congr (State.advance_fault s w), hh]
  rfl

theorem frame_advance_timerTick (s : State) (w : Word) : FrameExcept s (s.advance w).timerTick {.pc, .dt, .st, .ir} := by
  intro p hp
  cases p with
  | pc | dt | st | ir => simp at hp
  | _ => rfl

/-- Settles O5: the map's undefined words are the list's by `decodeWord_eq_none`, and their tick is the advance and the
timers. -/
theorem undefinedWordTickIsNoop : Obligations.UndefinedWordTickIsNoop := by
  refine fun w => ⟨decodeWord_eq_none_iff_no_row.symm.trans decodeWord_eq_none, fun s hfault hf hrow => ?_⟩
  exact ⟨_, step_of_undefined hfault hf (decodeWord_eq_none_iff_no_row.mpr hrow), rfl, countDown_toNat s.dt,
    countDown_toNat s.st, rfl, frame_advance_timerTick s w⟩

/-! ## Every tick answers a next state -/

/-- A failed check of the stack or of an access answers a state with the latch set (R156), and no key a rewound `pc` (R142). -/
theorem exec_answers_next (i : Instr) (s : State) : ∃ t, exec i s = .next t := by
  cases i with
  | ret | call | drw | ldB | dump | load | ldVxK =>
    simp only [exec, execRet, execCall, execDrw, execLdB, execDump, execLoad, execLdVxK]
    split <;> exact ⟨_, rfl⟩
  | _ => exact ⟨_, rfl⟩

theorem executeIr_answers_next (s : State) : ∃ t, executeIr s = .next t := by
  unfold executeIr
  split
  next i _ => exact exec_answers_next i s
  next => exact ⟨s, rfl⟩

theorem step_answers_next (s : State) : ∃ t, step s = .next t := by
  cases hh : s.halted with
  | true => exact ⟨s, step_of_halted hh⟩
  | false =>
    cases hf : s.fetch with
    | none => exact ⟨_, step_of_fetch_none hh hf⟩
    | some w =>
      obtain ⟨u, hu⟩ := executeIr_answers_next (s.advance w)
      exact ⟨u.finishTick, by rw [step_of_fetch hh hf, hu, endTick_next]⟩

/-- Settles O8: `exec` answers a next state, so a tick does whether it is halted, cannot fetch, or executes. -/
theorem everyTickAnswersNext : Obligations.EveryTickAnswersNext := ⟨exec_answers_next, step_answers_next⟩

end Sys2Proof.Machine
end

section
/-! The tick: its four steps, the halted core, and the count of the timers. -/

namespace Sys2Proof.Machine

open Sys2Proof

variable {s t u : State} {i : Instr} {w : Word}

/-! ## The halted core -/

/-- A run goes on from the state its first tick answers. -/
theorem core_run_succ (k : Nat) (h : step s = .next t) : Sys2Proof.core.run (k + 1) s = Sys2Proof.core.run k t := by
  have hstep : Sys2Proof.core.step s = .next t := h
  simp only [Host.Core.run, hstep]

/-- Settles O7: one tick of a halted core is the identity, so by induction any number of them. -/
theorem haltedCoreNeverChanges : Obligations.HaltedCoreNeverChanges := by
  intro s k hfault
  induction k with
  | zero => rfl
  | succ k ih => exact (core_run_succ k (step_of_halted ((State.halted_iff s).mpr hfault))).trans ih

/-! ## The count of the timers -/

/-- The end of a tick by the latch: the timers count unless it holds a fault (R84, R156). -/
theorem finishTick_eq (s : State) : s.finishTick = if s.fault = .none then s.timerTick else s := by
  unfold State.finishTick
  by_cases hfault : s.fault = .none <;> simp [State.halted, hfault]

/-- A tick that latches no fault is a fetch, an execute step and a count of the timers. -/
theorem step_without_fault (hh : s.halted = false) (h : step s = .next t) (ht : t.fault = .none) :
    ∃ w u, s.fetch = some w ∧ executeIr (s.advance w) = .next u ∧ t = u.timerTick := by
  cases hf : s.fetch with
  | none =>
    obtain rfl := Host.Outcome.next.inj ((step_of_fetch_none hh hf).symm.trans h)
    cases ht
  | some w =>
    obtain ⟨u, hu, rfl⟩ := endTick_eq_next ((step_of_fetch hh hf).symm.trans h)
    exact ⟨w, u, rfl, hu, by rw [finishTick_eq, if_pos ((State.finishTick_fault u).symm.trans ht)]⟩

/-- The execute step of a tick that runs `i` is `exec i`. -/
theorem State.runs.executeIr_eq (hrun : s.runs i) (hf : s.fetch = some w) :
    executeIr (s.advance w) = exec i (s.advance w) := by
  obtain ⟨-, w', hf', hd⟩ := hrun
  obtain rfl := Option.some.inj (hf'.symm.trans hf)
  exact executeIr_of_decode hd

/-- The execute step is the effect of the instruction the tick runs, or nothing on an undefined word (R68, R83). -/
theorem executeIr_cases (hh : s.halted = false) (hf : s.fetch = some w) (hu : executeIr (s.advance w) = .next u) :
    u = s.advance w ∨ ∃ i, s.runs i ∧ Effect (s.advance w) i u := by
  cases hd : decodeWord w with
  | none => exact .inl (Host.Outcome.next.inj ((executeIr_of_undefined hd).symm.trans hu)).symm
  | some i => exact .inr ⟨i, ⟨hh, w, hf, hd⟩, exec_effect ((executeIr_of_decode hd).symm.trans hu)⟩

theorem Effect.dt_eq (h : Effect s i t) (hi : ∀ x, i ≠ .ldDtVx x) : t.dt = s.dt := by
  cases h with
  | setDt => exact absurd rfl (hi _)
  | _ => rfl

theorem Effect.st_eq (h : Effect s i t) (hi : ∀ x, i ≠ .ldStVx x) : t.st = s.st := by
  cases h with
  | setSt => exact absurd rfl (hi _)
  | _ => rfl

/-- Settles O9: the timers count once from what the execute step left, which is the old value unless the tick ran the load of
that timer. -/
theorem timersCountEveryTick : Obligations.TimersCountEveryTick := by
  intro s t hfault h ht
  have hh : s.halted = false := (State.halted_eq_false s).mpr hfault
  obtain ⟨w, u, hf, hu, rfl⟩ := step_without_fault hh h ht
  have hexec : ∀ {i}, s.runs i → exec i (s.advance w) = .next u := fun hrun => (hrun.executeIr_eq hf).symm.trans hu
  have hcases := executeIr_cases hh hf hu
  refine ⟨fun x hrun => ?_, fun hno => ?_, fun x hrun => ?_, fun hno => ?_, fun x hrun => ?_⟩
  · obtain rfl := Host.Outcome.next.inj (hexec hrun)
    exact countDown_toNat (s.readV x)
  · have hdt : u.dt = s.dt := by
      obtain rfl | ⟨i, hrun, he⟩ := hcases
      · rfl
      · exact he.dt_eq fun x e => hno x (e ▸ hrun)
    rw [State.timerTick_dt, countDown_toNat, hdt]
  · obtain rfl := Host.Outcome.next.inj (hexec hrun)
    exact countDown_toNat (s.readV x)
  · have hst : u.st = s.st := by
      obtain rfl | ⟨i, hrun, he⟩ := hcases
      · rfl
      · exact he.st_eq fun x e => hno x (e ▸ hrun)
    rw [State.timerTick_st, countDown_toNat, hst]
  · obtain rfl := Host.Outcome.next.inj (hexec hrun)
    exact readV_writeV_same ..

/-! ## The four steps -/

/-- The fetch is the bytes at `pc` and `pc + 1`, the first high (R40, R81). -/
theorem fetch_of_readByte {hi lo : Byte} (hhi : s.readByte s.pc.toNat = some hi)
    (hlo : s.readByte (s.pc.toNat + 1) = some lo) : s.fetch = some (hi ++ lo) := by
  rw [readByte_eq, Option.ite_none_right_eq_some] at hhi hlo
  obtain ⟨-, hhi⟩ := hhi
  obtain ⟨hbound, hlo⟩ := hlo
  rw [fetch_eq, if_pos (by omega), Option.some.inj hhi, Option.some.inj hlo]

/-- Two bytes decode to the instruction of their word. -/
theorem decodeWord_of_decode {hi lo : Byte} {rest : List Byte} (h : decode [hi, lo] = .instr i rest) :
    decodeWord (hi ++ lo) = some i := by
  cases hd : decodeWord (hi ++ lo) <;> simp_all [decode, wordOfBytes]

/-- Settles O6: the halted tick, the fetch fault, and the tick of a fetched and decoded word, whose end is `finishTick_eq`. -/
theorem tickFollowsItsFourSteps : Obligations.TickFollowsItsFourSteps := by
  refine fun s => ⟨fun hfault => step_of_halted ((State.halted_iff s).mpr hfault), fun hfault hpc => ?_,
    fun hi lo i hfault hhi hlo hdecode => ?_⟩
  · exact step_of_fetch_none ((State.halted_eq_false s).mpr hfault) (fetch_eq_none.mpr hpc)
  · have hstep : step s = endTick (exec i (s.advance (hi ++ lo))) := by
      rw [step_of_fetch ((State.halted_eq_false s).mpr hfault) (fetch_of_readByte hhi hlo),
        executeIr_of_decode (decodeWord_of_decode hdecode)]
    refine ⟨fun t hexec => ?_, fun r hexec => ?_, fun r hexec => ?_⟩
    · exact hstep.trans ((congrArg endTick hexec).trans (congrArg _ (finishTick_eq t)))
    · exact hstep.trans (congrArg endTick hexec)
    · exact hstep.trans (congrArg endTick hexec)

end Sys2Proof.Machine
end

section
/-! Control flow (`41_control_flow.md`): what each jump, call, return and skip does to `pc` and the stack. -/

namespace Sys2Proof.Machine

open Sys2Proof

variable {s : State} {i : Instr}

/-! ## `CALL` and `RET` -/

/-- What `CALL` below the stack limit changes (R92). -/
theorem frame_call (k : Fin 16) (p : StackPointer) (w w' : Word) :
    FrameExcept s (State.writePc { s with stack := s.stack.set k w, sp := p } w') {.pc, .sp, .stack k} := by
  intro part hpart
  cases part with
  | pc | sp => simp at hpart
  | stack j =>
    have hne : k.val ≠ j.val := fun e => hpart (by simp [Fin.ext e])
    exact Vector.getElem_set_ne k.isLt j.isLt hne
  | _ => rfl

/-- What `RET` above the stack limit changes: the popped entry keeps its content (R90, R15). -/
theorem frame_ret (p : StackPointer) (w : Word) : FrameExcept s (State.writePc { s with sp := p } w) {.pc, .sp} := by
  intro part hpart
  cases part with
  | pc | sp => simp at hpart
  | _ => rfl

/-- Settles O21, by the two ends of `CALL`: the push of `pc`, and the fault of a full stack. -/
theorem callPushesAdvancedPc : Obligations.CallPushesAdvancedPc := by
  refine fun nnn s => ⟨fun k hk => ?_, exec_call_of_full nnn⟩
  have hlt : s.sp.val < 16 := hk ▸ k.isLt
  obtain rfl : k = ⟨s.sp.val, hlt⟩ := Fin.ext hk.symm
  exact ⟨_, exec_call_of_lt nnn hlt, Vector.getElem_set_self _, rfl, addrTarget_toNat nnn, frame_call _ _ _ _⟩

/-- Settles O22, by the two ends of `RET`: the pop of `pc`, and the fault of an empty stack. -/
theorem returnPopsPc : Obligations.ReturnPopsPc :=
  fun _ => ⟨fun k hk => ⟨_, exec_ret_of_succ k hk, rfl, rfl, frame_ret _ _⟩, exec_ret_of_empty⟩

/-- Settles O23: the entry that `RET` pops is the one that `CALL` pushed, and `pc` has no part in finding it. -/
theorem returnResumesAfterCall : Obligations.ReturnResumesAfterCall := by
  intro nnn s t p hlt hexec
  obtain ⟨hbelow, -⟩ := callPushesAdvancedPc nnn s
  obtain ⟨t', hcall, hentry, hsp, -, -⟩ := hbelow ⟨s.sp.val, hlt⟩ rfl
  obtain rfl := Host.Outcome.next.inj (hcall.symm.trans hexec)
  obtain ⟨habove, -⟩ := returnPopsPc { t' with pc := p }
  obtain ⟨u, hret, hpc, hsp', -⟩ := habove ⟨s.sp.val, hlt⟩ hsp
  exact ⟨u, hret, hpc.trans hentry, Fin.ext hsp'⟩

/-! ## Jumps -/

/-- Settles O20: the word is the encoder's, so the round trip decodes it, and the target is `nnn` extended by zeros. -/
theorem jumpSetsProgramCounter : Obligations.JumpSetsProgramCounter :=
  ⟨fun nnn => decodeEncodeRoundTrip (.jp nnn) rfl, fun nnn s => ⟨_, rfl, addrTarget_toNat nnn, frame_writePc s _⟩⟩

/-- The sum of a 12-bit address and a byte does not wrap (R93). -/
theorem jumpTarget_toNat (nnn : Addr) (b : Byte) : (addrTarget nnn + zextByte b).toNat = nnn.toNat + b.toNat := by
  have := nnn.isLt
  have := b.isLt
  rw [BitVec.toNat_add, addrTarget_toNat, zextByte_toNat]
  omega

/-- Settles O24: the 16-bit sum is the sum of the numbers. -/
theorem jumpWithOffsetAddsRegisterZero : Obligations.JumpWithOffsetAddsRegisterZero :=
  fun nnn s => ⟨_, rfl, jumpTarget_toNat nnn (s.readV 0), frame_writePc s _⟩

/-! ## Skips -/

/-- An instruction that skips on the flag `c` advances `pc` past one word where `c` holds and changes nothing else (R94, R98). -/
theorem exec_skips {c : Bool} {skip stay : Prop} (h : exec i s = .next (s.skipIf c)) (hskip : skip → c = true)
    (hstay : stay → c = false) :
    ∃ t, exec i s = .next t ∧ (skip → t.pc = s.pc + 2) ∧ (stay → t.pc = s.pc) ∧ FrameExcept s t {.pc} := by
  refine ⟨_, h, fun hs => ?_, fun hs => ?_, frame_skipIf s c⟩
  · rw [hskip hs, State.skipIf_pc, if_pos rfl]
  · rw [hstay hs, State.skipIf_pc, if_neg Bool.false_ne_true]

/-- Settles O25: the two instructions skip on `==` and on `!=`. -/
theorem skipsOnImmediate : Obligations.SkipsOnImmediate := fun _ _ _ =>
  ⟨exec_skips rfl beq_iff_eq.mpr beq_eq_false_iff_ne.mpr, exec_skips rfl bne_iff_ne.mpr bne_eq_false_iff_eq.mpr⟩

/-- Family 5 decodes by its number alone (R64). -/
theorem decodeWord_family5 (w : Word) (h : w.toNat / 4096 = 5) : decodeWord w = some (.seReg (xField w) (yField w)) := by
  simp only [decodeWord, familyField_toNat, h]

/-- Family 9 decodes by its number alone (R64). -/
theorem decodeWord_family9 (w : Word) (h : w.toNat / 4096 = 9) : decodeWord w = some (.sneReg (xField w) (yField w)) := by
  simp only [decodeWord, familyField_toNat, h]

/-- Settles O26: neither family looks at the low nibble, and the two instructions skip on `==` and on `!=`. -/
theorem skipsOnRegisters : Obligations.SkipsOnRegisters := by
  refine ⟨decodeWord_family5, decodeWord_family9, fun x y s => ⟨?_, ?_⟩⟩
  · exact exec_skips rfl beq_iff_eq.mpr beq_eq_false_iff_ne.mpr
  · exact exec_skips rfl bne_iff_ne.mpr bne_eq_false_iff_eq.mpr

end Sys2Proof.Machine
end

section
/-! Load, arithmetic, logic, shift and random (`42_load_alu.md`): the numbers the results and the flags stand for. -/

namespace Sys2Proof.Machine

open Sys2Proof

variable {s : State} {i : Instr}

/-! ## The flags as numbers -/

theorem flagByte_toNat (f : Bool) : (flagByte f).toNat = f.toNat := by
  cases f <;> rfl

/-- The carry is the ninth bit of the sum (R106). -/
theorem flagByte_carryOut_toNat (a b : Byte) : (flagByte (carryOut a b)).toNat = (a.toNat + b.toNat) / 256 := by
  have := a.isLt
  have := b.isLt
  by_cases h : a.toNat + b.toNat > 255
  · rw [flagByte_toNat, carryOut, decide_eq_true h, Bool.toNat_true]
    omega
  · rw [flagByte_toNat, carryOut, decide_eq_false h, Bool.toNat_false]
    omega

/-- Equality included (R107, R109). -/
theorem flagByte_noBorrow_of_le {a b : Byte} (h : b.toNat ≤ a.toNat) : flagByte (noBorrow a b) = 1 := by
  rw [noBorrow, decide_eq_true h, flagByte_true]

theorem flagByte_noBorrow_of_lt {a b : Byte} (h : a.toNat < b.toNat) : flagByte (noBorrow a b) = 0 := by
  rw [noBorrow, decide_eq_false (Nat.not_le_of_lt h), flagByte_false]

theorem flagByte_shiftedOutRight_toNat (a : Byte) : (flagByte (shiftedOutRight a)).toNat = a.toNat % 2 := by
  rw [flagByte_toNat, shiftedOutRight, BitVec.getLsbD, Nat.toNat_testBit, Nat.pow_zero, Nat.div_one]

theorem flagByte_shiftedOutLeft_toNat (a : Byte) : (flagByte (shiftedOutLeft a)).toNat = a.toNat / 128 := by
  have := a.isLt
  rw [flagByte_toNat, shiftedOutLeft, BitVec.getLsbD, Nat.toNat_testBit]
  omega

/-! ## The flag writers -/

/-- Settles O30: the result is the wrapped sum, and the flag, written last, is the sum's ninth bit. -/
theorem addSetsCarry : Obligations.AddSetsCarry := by
  refine fun x y s => ⟨_, rfl, fun hx => ?_, ?_, frame_writeResultFlag s x _ _⟩
  · rw [readV_writeResultFlag_dest s _ _ hx, BitVec.toNat_add]
  · rw [readV_writeResultFlag_vf, flagByte_carryOut_toNat]

/-- The wraparound difference of two bytes is their integer difference modulo 256 (R107). -/
theorem byte_sub_toNat (a b : Byte) : ((a - b).toNat : Int) = (a.toNat - b.toNat : Int) % 256 := by
  have := a.isLt
  have := b.isLt
  rw [BitVec.toNat_sub]
  omega

/-- What `SUB` and `SUBN` do, with the minuend `a` and the subtrahend `b` (R107, R109). -/
theorem exec_subtracts {x : Reg} {a b : Byte} (h : exec i s = .next (s.writeResultFlag x (a - b) (noBorrow a b))) :
    ∃ t, exec i s = .next t ∧ (x ≠ vf → ((t.readV x).toNat : Int) = (a.toNat - b.toNat : Int) % 256) ∧
      (b.toNat ≤ a.toNat → t.readV vf = 1) ∧ (a.toNat < b.toNat → t.readV vf = 0) ∧ FrameExcept s t {.v x, .v vf} := by
  refine ⟨_, h, fun hx => ?_, fun hle => ?_, fun hlt => ?_, frame_writeResultFlag s x _ _⟩
  · rw [readV_writeResultFlag_dest s _ _ hx, byte_sub_toNat]
  · rw [readV_writeResultFlag_vf, flagByte_noBorrow_of_le hle]
  · rw [readV_writeResultFlag_vf, flagByte_noBorrow_of_lt hlt]

/-- Settles O31: the two instructions are one subtraction with the operands exchanged. -/
theorem subtractSetsNoBorrow : Obligations.SubtractSetsNoBorrow :=
  fun _ _ _ => ⟨exec_subtracts rfl, exec_subtracts rfl⟩

/-- `V[x]` is shifted in place (D14). -/
@[simp] theorem shiftOperand_eq (x y : Reg) : shiftOperand x y = x := rfl

/-- Settles O32: a shift by one halves or doubles the byte, and the flag is the bit at the end it moves towards. -/
theorem shiftsSetShiftedOutBit : Obligations.ShiftsSetShiftedOutBit := by
  refine fun x y s => ⟨⟨_, rfl, fun hx => ?_, ?_, frame_writeResultFlag s x _ _⟩,
    ⟨_, rfl, fun hx => ?_, ?_, frame_writeResultFlag s x _ _⟩⟩
  · rw [readV_writeResultFlag_dest s _ _ hx, shiftOperand_eq, BitVec.toNat_ushiftRight, Nat.shiftRight_one]
  · rw [readV_writeResultFlag_vf, shiftOperand_eq, flagByte_shiftedOutRight_toNat]
  · rw [readV_writeResultFlag_dest s _ _ hx, shiftOperand_eq, BitVec.toNat_shiftLeft, Nat.shiftLeft_eq, Nat.pow_one]
  · rw [readV_writeResultFlag_vf, shiftOperand_eq, flagByte_shiftedOutLeft_toNat]

/-! ## The instructions that write `V[x]` alone -/

/-- Settles O27: the register reads the value written. -/
theorem loadImmediateAndCopy : Obligations.LoadImmediateAndCopy := fun x _ _ s =>
  ⟨⟨_, rfl, readV_writeV_same s x _, frame_writeV s x _⟩, ⟨_, rfl, readV_writeV_same s x _, frame_writeV s x _⟩⟩

/-- Settles O28: the sum of bytes wraps, and no flag is written. -/
theorem addImmediateWraps : Obligations.AddImmediateWraps := by
  refine fun x kk s => ⟨_, rfl, ?_, frame_writeV s x _⟩
  rw [readV_writeV_same, BitVec.toNat_add]

/-- Settles O29: the operations on bytes are the operations on their bits. -/
theorem logicIsBitwise : Obligations.LogicIsBitwise := by
  refine fun x y s => ⟨⟨_, rfl, frame_writeV s x _, fun k _ => ?_⟩, ⟨_, rfl, frame_writeV s x _, fun k _ => ?_⟩,
    ⟨_, rfl, frame_writeV s x _, fun k _ => ?_⟩⟩
  · rw [readV_writeV_same, BitVec.getLsbD_or]
  · rw [readV_writeV_same, BitVec.getLsbD_and]
  · rw [readV_writeV_same, BitVec.getLsbD_xor]

/-! ## Random -/

/-- What `RND` changes: its destination and the count of drawn bytes (R111, R28). -/
theorem frame_consumeRnd_writeV (x : Reg) (b : Byte) : FrameExcept s (s.consumeRnd.writeV x b) {.v x, .rnd} := by
  intro part hpart
  cases part with
  | v y => exact readV_writeV_ne s.consumeRnd b fun hy => hpart (.inl (congrArg Part.v hy))
  | rnd => exact absurd (.inr rfl) hpart
  | _ => rfl

/-- Settles O33: whatever the drawn byte is, a bit that is 0 in the mask is 0 in the result. -/
theorem randomIsMasked : Obligations.RandomIsMasked := by
  intro x kk s
  have hread := readV_writeV_same s.consumeRnd x (s.rndByte &&& kk)
  refine ⟨_, rfl, hread, ?_, rfl, frame_consumeRnd_writeV x _⟩
  rw [hread, BitVec.and_assoc, BitVec.and_not_self]
  exact BitVec.and_zero

end Sys2Proof.Machine
end

section
/-! Index register and memory (`43_index_memory.md`): what is loaded into `I`, and the blocks that `LD B`, the register dump
and the register load move, in range and out of range. -/

namespace Sys2Proof.Machine

open Sys2Proof

variable {s : State} {i : Instr}

/-! ## Loads of `I` -/

/-- Settles O34: the 12-bit operand is extended by zeros. -/
theorem loadIndexSetsAddress : Obligations.LoadIndexSetsAddress :=
  fun nnn s => ⟨_, rfl, addrTarget_toNat nnn, frame_writeI s _⟩

/-- Settles O35: `I` is the 16-bit sum, which nothing masks. -/
theorem addIndexWrapsAtSixteenBits : Obligations.AddIndexWrapsAtSixteenBits := by
  refine fun x s => ⟨_, rfl, ?_, frame_writeI s _⟩
  rw [State.writeI_i, BitVec.toNat_add, zextByte_toNat]

/-- The glyph address of the largest byte is `0x54B`, so 16 bits hold it (R122, D16). -/
theorem fontAddress_toNat (b : Byte) : (fontAddress b).toNat = 0x050 + 5 * b.toNat := by
  have := b.isLt
  exact Nat.mod_eq_of_lt (show 0x050 + 5 * b.toNat < 2 ^ 16 by omega)

/-- Settles O36, by the address as a number. -/
theorem fontAddressIsComputed : Obligations.FontAddressIsComputed :=
  fun x s => ⟨_, rfl, fontAddress_toNat (s.readV x), frame_writeI s _⟩

/-! ## Accesses out of range -/

/-- An instruction whose access would leave memory only latches the fault (R49, R154). -/
theorem exec_of_bad_access (h : rangeOk s.base i.accessBytes = false) : exec i s = .next (s.raise .addressOutOfRange) := by
  cases i with
  | ldB x => rw [exec, execLdB, writeBlock_eq_none.mpr h]
  | dump x => rw [exec, execDump, writeBlock_eq_none.mpr (by rwa [regsUpTo_length])]
  | load x =>
    have hbad : rangeOk s.base (x.val + 1) = false := h
    rw [exec, execLoad, readBlock_eq_none.mpr hbad]
  | drw x y n =>
    have hbad : rangeOk s.base n = false := h
    rw [exec, execDrw, readBlock_eq_none.mpr hbad]
  | _ => exact absurd rfl ((rangeOk_eq_false _ _).mp h).1

/-! ## Stores -/

/-- A block write changes the bytes of the block alone. -/
theorem frame_setBlock (a : Nat) (bs : List Byte) :
    FrameExcept s (s.writeMem (s.mem.setBlock a bs)) {p | ∃ k < bs.length, p = .mem (a + k)} := by
  intro part hpart
  cases part with
  | mem b =>
    have hinside (k : Nat) (hk : k < bs.length) : b ≠ a + k := fun e => hpart ⟨k, hk, congrArg Part.mem e⟩
    have hb := hinside (b - a)
    exact readByte_setBlock_outside s bs a b (by omega)
  | _ => rfl

/-- `LD B` whose three bytes lie in memory stores the digits (R123, R49). -/
theorem exec_ldB_of_in_range (x : Reg) (h : s.i.toNat + 2 ≤ 0xFFF) :
    exec (.ldB x) s = .next (s.writeMem (s.mem.setBlock s.i.toNat (bcdDigits (s.readV x)))) := by
  have hok : rangeOk s.base (bcdDigits (s.readV x)).length = true := (rangeOk_iff _ _).mpr (.inr h)
  rw [exec, execLdB, writeBlock_eq_some.mpr ⟨hok, rfl⟩]
  rfl

/-- Settles O37: the bytes of the block are the digits, none of which a byte cuts off. -/
theorem storeBcdWritesThreeDigits : Obligations.StoreBcdWritesThreeDigits := by
  intro x s
  have hv := (s.readV x).isLt
  refine ⟨fun h => ⟨_, exec_ldB_of_in_range x h, ?_, ?_, ?_, ?_⟩, fun h => ?_⟩
  · exact ⟨_, readByte_setBlock_inside s _ _ 0 (by simp) (by omega), Nat.mod_eq_of_lt (by omega)⟩
  · exact ⟨_, readByte_setBlock_inside s _ _ 1 (by simp) (by omega), Nat.mod_eq_of_lt (by omega)⟩
  · exact ⟨_, readByte_setBlock_inside s _ _ 2 (by simp) (by omega), Nat.mod_eq_of_lt (by omega)⟩
  · refine (frame_setBlock _ _).mono ?_
    rintro _ ⟨k, hk, rfl⟩
    rw [bcdDigits_length] at hk
    interval_cases k <;> simp
  · exact exec_of_bad_access ((rangeOk_eq_false _ _).mpr ⟨Nat.succ_ne_zero _, h⟩)

/-- Settles O38: byte `k` of the block is `V[k]`. -/
theorem registerDumpStoresBlock : Obligations.RegisterDumpStoresBlock := by
  refine fun x s => ⟨fun h => ⟨_, exec_dump_of_in_range x h, fun k hk => ?_, ?_⟩, fun h => ?_⟩
  · have hk' : k.val ≤ x.val := hk
    rw [readByte_eq, if_pos (by omega), State.writeMem_mem, get_setBlock_regsUpTo _ _ hk]
  · refine (frame_setBlock _ _).mono ?_
    rintro _ ⟨k, hk, rfl⟩
    rw [regsUpTo_length] at hk
    exact ⟨⟨k, hk.trans_le x.isLt⟩, Nat.le_of_lt_succ hk, rfl⟩
  · exact exec_of_bad_access ((rangeOk_eq_false _ _).mpr ⟨Nat.succ_ne_zero _, h⟩)

/-! ## The register load -/

/-- Register `k` after a block load is byte `k` of the block (R125). -/
theorem readV_writeRegs_inside {bs : List Byte} {k : Reg} (h : k.val < bs.length) :
    (s.writeRegs bs).readV k = bs[k.val] := by
  show (loadRegs s.v 0 bs)[k.val] = bs[k.val]
  rw [loadRegs_getElem, dif_pos ⟨Nat.zero_le _, h⟩]
  rfl

/-- A block load changes the registers of the block alone (R125). -/
theorem frame_writeRegs (bs : List Byte) :
    FrameExcept s (s.writeRegs bs) {p | ∃ k : Reg, k.val < bs.length ∧ p = .v k} := by
  intro part hpart
  cases part with
  | v k => exact readV_writeRegs_above (Nat.le_of_not_lt fun h => hpart ⟨k, h, rfl⟩)
  | _ => rfl

/-- A register load whose block lies in memory loads the cells in order (R125, R49). -/
theorem exec_load_of_in_range (x : Reg) (h : s.i.toNat + x.val ≤ 0xFFF) :
    exec (.load x) s = .next (s.writeRegs ((List.range (x.val + 1)).map fun k => s.mem.get (s.i.toNat + k))) := by
  have hok : rangeOk s.base (x.val + 1) = true := (rangeOk_iff _ _).mpr (.inr h)
  rw [exec, execLoad, readBlock_eq_some.mpr ⟨hok, rfl⟩]
  rfl

/-- Settles O39: register `k` is the cell at `I + k`. -/
theorem registerLoadReadsBlock : Obligations.RegisterLoadReadsBlock := by
  refine fun x s => ⟨fun h => ⟨_, exec_load_of_in_range x h, fun k hk => ?_, ?_⟩, fun h => ?_⟩
  · have hk' : k.val ≤ x.val := hk
    rw [readV_writeRegs_inside (by simpa using Nat.lt_succ_of_le hk'), List.getElem_map, List.getElem_range, readByte_eq,
      if_pos (by omega)]
  · refine (frame_writeRegs _).mono ?_
    rintro _ ⟨k, hk, rfl⟩
    rw [List.length_map, List.length_range] at hk
    exact ⟨k, Nat.le_of_lt_succ hk, rfl⟩
  · exact exec_of_bad_access ((rangeOk_eq_false _ _).mpr ⟨Nat.succ_ne_zero _, h⟩)

/-- Settles O40: the load reads at `I + k` the byte that the dump has put there. -/
theorem loadAfterDumpRestores : Obligations.LoadAfterDumpRestores := by
  intro x s t u hrange hdump hmem hi
  obtain ⟨hstore, -⟩ := registerDumpStoresBlock x s
  obtain ⟨t', ht', hbytes, -⟩ := hstore hrange
  obtain rfl := Host.Outcome.next.inj (ht'.symm.trans hdump)
  obtain ⟨hread, -⟩ := registerLoadReadsBlock x u
  obtain ⟨u', hu', hregs, -⟩ := hread (hi ▸ hrange)
  refine ⟨u', hu', fun k hk => Option.some.inj ?_⟩
  calc some (u'.readV k)
      = u.readByte (u.i.toNat + k.val) := hregs k hk
    _ = t'.readByte (s.i.toNat + k.val) := by rw [hi, State.readByte_congr hmem]
    _ = some (s.readV k) := hbytes k hk

end Sys2Proof.Machine
end

section
/-! Display (`44_display.md`): what `CLS` and `DRW` leave in the framebuffer, and the collision in VF. -/

namespace Sys2Proof.Machine

open Sys2Proof

variable {s t : State}

/-! ## Frames of the framebuffer writes -/

theorem FrameExcept.trans {u : State} {c d : Set Part} (hst : FrameExcept s t c) (htu : FrameExcept t u d) :
    FrameExcept s u (c ∪ d) := by
  intro part hpart
  have hs := hst part fun hc => hpart (.inl hc)
  have ht := htu part fun hd => hpart (.inr hd)
  cases part <;> exact Eq.trans ht hs

/-- A new framebuffer changes pixels of the display alone: outside there is none (R19). -/
theorem frame_writeFb (fb : Framebuffer) :
    FrameExcept s (s.writeFb fb) {p | ∃ r c, r < 32 ∧ c < 64 ∧ p = .pixel r c} := by
  intro part hpart
  cases part with
  | pixel r c =>
    have hout : ¬(r < Config.displayH ∧ c < Config.displayW) := fun ⟨hr, hc⟩ => hpart ⟨r, c, hr, hc, rfl⟩
    exact (pixel_outside fb hout).trans (pixel_outside s.fb hout).symm
  | _ => rfl

/-- Settles O42: the framebuffer written is the blank one. -/
theorem clearTurnsEveryPixelOff : Obligations.ClearTurnsEveryPixelOff := by
  refine fun s => ⟨_, rfl, pixel_blank, (frame_writeFb _).mono ?_⟩
  rintro _ ⟨r, c, -, -, rfl⟩
  exact ⟨r, c, rfl⟩

/-! ## Drawing a set of pixels -/

/-- The loops of `DRW` have gone from `d` to `e` by drawing the pixels `on` of the display, each of them once: they toggle, and
a collision is an earlier one or a drawn pixel that was on (R131). -/
structure Draws (on : Nat → Nat → Bool) (d e : Drawing) : Prop where
  pixel : ∀ r c, r < 32 → c < 64 → e.1.pixel r c = (d.1.pixel r c ^^ on r c)
  hit : e.2 = true ↔ d.2 = true ∨ ∃ r c, r < 32 ∧ c < 64 ∧ on r c = true ∧ d.1.pixel r c = true

variable {p q : Nat → Nat → Bool} {d e f : Drawing}

theorem Draws.of_none (hp : ∀ r c, p r c = false) : Draws p d d := ⟨by simp [hp], by simp [hp]⟩

/-- Drawing on pixels that were not drawn before: the second drawing finds them as the first did. -/
theorem Draws.trans (hp : Draws p d e) (hq : Draws q e f) (hdisj : ∀ r c, p r c = true → q r c = false) :
    Draws (fun r c => p r c || q r c) d f where
  pixel r c hr hc := by
    rw [hq.pixel r c hr hc, hp.pixel r c hr hc, Bool.xor_assoc]
    cases hpo : p r c with
    | false => rw [Bool.false_xor, Bool.false_or]
    | true => rw [hdisj r c hpo, Bool.xor_false, Bool.or_false]
  hit := by
    have hfound : ∀ r c, r < 32 → c < 64 → q r c = true → e.1.pixel r c = d.1.pixel r c := by
      intro r c hr hc hqo
      have hpo : p r c = false := Bool.eq_false_iff.mpr fun h => by simp [hdisj r c h] at hqo
      rw [hp.pixel r c hr hc, hpo, Bool.xor_false]
    rw [hq.hit, hp.hit, or_assoc]
    refine or_congr_right ⟨?_, ?_⟩
    · rintro (⟨r, c, hr, hc, hon, hd⟩ | ⟨r, c, hr, hc, hon, he⟩)
      · exact ⟨r, c, hr, hc, by simp [hon], hd⟩
      · exact ⟨r, c, hr, hc, by simp [hon], hfound r c hr hc hon ▸ he⟩
    · rintro ⟨r, c, hr, hc, hon, hd⟩
      obtain hpo | hqo := (Bool.or_eq_true _ _).mp hon
      · exact .inl ⟨r, c, hr, hc, hpo, hd⟩
      · exact .inr ⟨r, c, hr, hc, hqo, (hfound r c hr hc hqo).trans hd⟩

theorem drawPixel_draws (r c : Nat) (on : Bool) (d : Drawing) :
    Draws (fun r' c' => decide (r' = r ∧ c' = c) && on) d (drawPixel r c on d) where
  pixel r' c' hr hc := by
    rw [drawPixel_pixel]
    congr 1
    by_cases hp : r' = r ∧ c' = c
    · obtain ⟨rfl, rfl⟩ := hp
      simp [hr, hc]
    · simp [hp]
  hit := by
    rw [drawPixel_hit, Bool.or_eq_true, Bool.and_eq_true]
    refine or_congr_right ⟨?_, ?_⟩
    · rintro ⟨hon, hd⟩
      obtain ⟨hr, hc⟩ : r < Config.displayH ∧ c < Config.displayW := by_contra fun h => by simp [pixel_outside _ h] at hd
      exact ⟨r, c, hr, hc, by simp [hon], hd⟩
    · rintro ⟨r', c', -, -, hon, hd⟩
      simp only [Bool.and_eq_true, decide_eq_true_eq] at hon
      obtain ⟨⟨rfl, rfl⟩, hon⟩ := hon
      exact ⟨hon, hd⟩

/-! ## Drawing a sprite -/

/-- Whether the sprite, cut to its `w` leftmost columns, is on at row `r'`, column `c'`, its top left corner at row `r`,
column `c` (R131, D6). -/
def spriteBit (sprite : List Byte) (w r c r' c' : Nat) : Bool :=
  decide (r ≤ r' ∧ r' < r + sprite.length ∧ c ≤ c' ∧ c' < c + w) && (sprite.getD (r' - r) 0).getLsbD (7 - (c' - c))

theorem spriteBit_eq_true {sprite : List Byte} {w r c r' c' : Nat} : spriteBit sprite w r c r' c' = true ↔
    (r ≤ r' ∧ r' < r + sprite.length ∧ c ≤ c' ∧ c' < c + w) ∧ (sprite.getD (r' - r) 0).getLsbD (7 - (c' - c)) = true := by
  rw [spriteBit, Bool.and_eq_true, decide_eq_true_eq]

/-- One more column of a sprite row. -/
theorem spriteBit_row_succ (b : Byte) (w r c r' c' : Nat) : spriteBit [b] (w + 1) r c r' c' =
    (spriteBit [b] w r c r' c' || (decide (r' = r ∧ c' = c + w) && b.getLsbD (7 - w))) := by
  by_cases hlast : r' = r ∧ c' = c + w
  · obtain ⟨rfl, rfl⟩ := hlast
    simp [spriteBit]
  · have hold : (r ≤ r' ∧ r' < r + 1 ∧ c ≤ c' ∧ c' < c + (w + 1)) ↔ (r ≤ r' ∧ r' < r + 1 ∧ c ≤ c' ∧ c' < c + w) := by omega
    simp only [spriteBit, List.length_singleton, hold, decide_eq_false hlast, Bool.false_and, Bool.or_false]

/-- One more row on top of a sprite. -/
theorem spriteBit_cons (b : Byte) (rest : List Byte) (w r c r' c' : Nat) : spriteBit (b :: rest) w r c r' c' =
    (spriteBit [b] w r c r' c' || spriteBit rest w (r + 1) c r' c') := by
  obtain habove | rfl | hbelow := Nat.lt_trichotomy r' r
  · have hout (sprite : List Byte) : ¬(r ≤ r' ∧ r' < r + sprite.length ∧ c ≤ c' ∧ c' < c + w) := by omega
    have hrest : ¬(r + 1 ≤ r' ∧ r' < r + 1 + rest.length ∧ c ≤ c' ∧ c' < c + w) := by omega
    simp only [spriteBit, decide_eq_false (hout _), decide_eq_false hrest, Bool.false_and, Bool.or_false]
  · simp [spriteBit]
  · obtain ⟨k, rfl⟩ := Nat.exists_eq_add_of_lt hbelow
    have hsingle : ¬(r ≤ r + k + 1 ∧ r + k + 1 < r + [b].length ∧ c ≤ c' ∧ c' < c + w) := by
      rw [List.length_singleton]
      omega
    have hin : (r ≤ r + k + 1 ∧ r + k + 1 < r + (b :: rest).length ∧ c ≤ c' ∧ c' < c + w) ↔
        (r + 1 ≤ r + k + 1 ∧ r + k + 1 < r + 1 + rest.length ∧ c ≤ c' ∧ c' < c + w) := by
      rw [List.length_cons]
      omega
    have hrow : r + k + 1 - r = k + 1 := by omega
    have hrow' : r + k + 1 - (r + 1) = k := by omega
    simp only [spriteBit, hin, hrow, hrow', decide_eq_false hsingle, List.getD_cons_succ, Bool.false_and, Bool.false_or]

/-- The `w` leftmost pixels of a row, by the loop of `drawRow`. -/
theorem foldl_drawPixel_draws (r c : Nat) (b : Byte) (d : Drawing) (w : Nat) : Draws (spriteBit [b] w r c) d
    ((List.range w).foldl (fun d col => drawPixel r (c + col) (b.getLsbD (7 - col)) d) d) := by
  induction w with
  | zero => exact .of_none fun r' c' => by rw [spriteBit, decide_eq_false (by omega), Bool.false_and]
  | succ w ih =>
    rw [List.range_succ, List.foldl_append, funext₂ (spriteBit_row_succ b w r c)]
    refine ih.trans (drawPixel_draws r (c + w) _ _) fun r' c' hon => ?_
    obtain ⟨⟨-, -, -, hw⟩, -⟩ := spriteBit_eq_true.mp hon
    rw [decide_eq_false (by omega), Bool.false_and]

theorem drawRow_draws (r c : Nat) (b : Byte) (d : Drawing) : Draws (spriteBit [b] 8 r c) d (drawRow r c b d) :=
  foldl_drawPixel_draws r c b d 8

theorem drawRows_draws (r c : Nat) (sprite : List Byte) (d : Drawing) :
    Draws (spriteBit sprite 8 r c) d (drawRows r c sprite d) := by
  induction sprite generalizing r d with
  | nil =>
    refine .of_none fun r' c' => ?_
    rw [spriteBit, List.length_nil, decide_eq_false (by omega), Bool.false_and]
  | cons b rest ih =>
    rw [drawRows, funext₂ (spriteBit_cons b rest 8 r c)]
    refine (drawRow_draws r c b d).trans (ih (r + 1) _) fun r' c' hon => ?_
    obtain ⟨⟨-, hr, -, -⟩, -⟩ := spriteBit_eq_true.mp hon
    rw [List.length_singleton] at hr
    rw [spriteBit, decide_eq_false (by omega), Bool.false_and]

/-- The bytes `DRW` reads are the sprite at `I` (R131, R49). -/
theorem spriteBit_read (x y : Reg) {n : Nat} (h : n = 0 ∨ s.i.toNat + n - 1 ≤ 0xFFF) (r c : Nat) :
    spriteBit ((List.range n).map fun k => s.mem.get (s.i.toNat + k)) 8 (s.spriteRow y) (s.spriteColumn x) r c =
      spriteOn s x y n r c := by
  rw [spriteBit, spriteOn, List.length_map, List.length_range]
  by_cases hin : s.spriteRow y ≤ r ∧ r < s.spriteRow y + n ∧ s.spriteColumn x ≤ c ∧ c < s.spriteColumn x + 8
  · have hk : r - s.spriteRow y < n := by omega
    rw [readByte_eq, if_pos (by omega)]
    simp [hk]
  · rw [decide_eq_false hin, Bool.false_and, Bool.false_and]

/-- `DRW` whose sprite lies in memory draws it and writes the collision to VF (R131). -/
theorem exec_drw_of_in_range (x y : Reg) {n : Nat} (h : n = 0 ∨ s.i.toNat + n - 1 ≤ 0xFFF) :
    ∃ d : Drawing, exec (.drw x y n) s = .next ((s.writeFb d.1).writeFlag d.2) ∧ Draws (spriteOn s x y n) (s.fb, false) d := by
  refine ⟨_, ?_, funext₂ (spriteBit_read x y h) ▸ drawRows_draws _ _ _ _⟩
  have hok : rangeOk s.base n = true := (rangeOk_iff _ _).mpr h
  rw [exec, execDrw, readBlock_eq_some.mpr ⟨hok, rfl⟩]
  rfl

/-- Settles O43: the sprite rows are drawn pixel by pixel, each pixel once. -/
theorem drawXorsSpriteAndCollides : Obligations.DrawXorsSpriteAndCollides := by
  refine fun x y n s => ⟨fun h => ?_, fun hn h => exec_of_bad_access ((rangeOk_eq_false _ _).mpr ⟨hn.ne', h⟩)⟩
  obtain ⟨⟨fb, hit⟩, hexec, hdraws⟩ := exec_drw_of_in_range x y h
  refine ⟨_, hexec, hdraws.pixel, fun hmet => ?_, fun hnone => ?_, ?_⟩
  · have hhit : hit = true := hdraws.hit.mpr (.inr hmet)
    rw [readV_writeFlag_vf, hhit, flagByte_true]
  · have hhit : hit = false := by
      refine Bool.eq_false_iff.mpr fun hh => ?_
      obtain hf | ⟨r, c, hr, hc, hon, hpix⟩ := hdraws.hit.mp hh
      · cases hf
      · exact absurd (hpix.symm.trans (hnone r c hr hc hon)) (by decide)
    rw [readV_writeFlag_vf, hhit, flagByte_false]
  · refine ((frame_writeFb fb).trans (frame_writeV _ vf (flagByte hit))).mono ?_
    rintro part (hpix | hvf)
    · exact .inr hpix
    · exact .inl hvf

/-! ## Drawing twice -/

theorem framebuffer_ext {fb fb' : Framebuffer} (h : ∀ r c, r < 32 → c < 64 → fb.pixel r c = fb'.pixel r c) : fb = fb' := by
  refine Vector.ext fun r hr => Vector.ext fun c hc => ?_
  have hpix := h r c hr hc
  rwa [Framebuffer.pixel, Framebuffer.pixel, dif_pos ⟨hr, hc⟩, dif_pos ⟨hr, hc⟩] at hpix

/-- A sprite is determined by `I`, the memory and the place. -/
theorem spriteOn_congr {x y : Reg} (hi : t.i = s.i) (hmem : ∀ a, t.readByte a = s.readByte a)
    (hcol : t.spriteColumn x = s.spriteColumn x) (hrow : t.spriteRow y = s.spriteRow y) (n r c : Nat) :
    spriteOn t x y n r c = spriteOn s x y n r c := by
  rw [spriteOn, spriteOn, hi, hmem, hcol, hrow]

/-- Settles O44: the second draw meets what the first has left, the framebuffer XORed with the same sprite. -/
theorem drawTwiceRestoresFramebuffer : Obligations.DrawTwiceRestoresFramebuffer := by
  intro x y n s t u hrange ht hu hx hy
  obtain ⟨t', ht', hfirst, -, -, hframe⟩ := (drawXorsSpriteAndCollides x y n s).1 hrange
  obtain rfl := Host.Outcome.next.inj (ht'.symm.trans ht)
  have hi : t'.i = s.i := hframe .i (by simp)
  have hmem (a : Nat) : t'.readByte a = s.readByte a := hframe (.mem a) (by simp)
  have hv {z : Reg} (hz : z ≠ vf) : t'.readV z = s.readV z := hframe (.v z) (by simpa using hz)
  have hcol : t'.spriteColumn x = s.spriteColumn x := by
    by_cases hz : x = vf
    · exact hz ▸ hx hz
    · rw [State.spriteColumn, State.spriteColumn, hv hz]
  have hrow : t'.spriteRow y = s.spriteRow y := by
    by_cases hz : y = vf
    · exact hz ▸ hy hz
    · rw [State.spriteRow, State.spriteRow, hv hz]
  have hsprite := spriteOn_congr hi hmem hcol hrow n
  obtain ⟨u', hu', hsecond, hone, hzero, -⟩ := (drawXorsSpriteAndCollides x y n t').1 (hi ▸ hrange)
  obtain rfl := Host.Outcome.next.inj (hu'.symm.trans hu)
  refine ⟨framebuffer_ext fun r c hr hc => ?_, fun hvf => ?_, ?_⟩
  · rw [hsecond r c hr hc, hfirst r c hr hc, hsprite, Bool.xor_assoc, Bool.xor_self, Bool.xor_false]
  · by_contra hnone
    have hoff (r c : Nat) (hr : r < 32) (hc : c < 64) (hon : spriteOn t' x y n r c = true) : t'.fb.pixel r c = false := by
      rw [hsprite] at hon
      have hwas : s.fb.pixel r c = true := Bool.of_not_eq_false fun hfb => hnone ⟨r, c, hr, hc, hon, hfb⟩
      rw [hfirst r c hr hc, hon, hwas, Bool.xor_self]
    exact absurd (hvf.symm.trans (hzero hoff)) (by decide)
  · rintro ⟨r, c, hr, hc, hon, hfb⟩
    exact hone ⟨r, c, hr, hc, (hsprite r c).trans hon, by rw [hfirst r c hr hc, hon, hfb, Bool.false_xor]⟩

end Sys2Proof.Machine
end

section
/-! Keypad and timers (`45_keypad_timers.md`): the key skips, the wait for a key and the timer transfers, each with the tick
around it where the timers count. -/

namespace Sys2Proof.Machine

open Sys2Proof

variable {s : State} {i : Instr}

/-- A tick that runs an instruction and latches no fault is its execute step on the advanced state, then the count of the timers
(R83, R84). -/
theorem State.runs.step_eq (hrun : s.runs i) : ∃ w, ∀ {u : State}, exec i (s.advance w) = .next u → u.fault = s.fault →
    step s = .next u.timerTick := by
  obtain ⟨hh, w, hf, hd⟩ := hrun
  refine ⟨w, fun {u} hu hfault => ?_⟩
  rw [step_of_fetch hh hf, executeIr_of_decode hd, hu, endTick_next, finishTick_eq, hfault,
    if_pos ((State.halted_eq_false s).mp hh)]

/-! ## Key skips -/

/-- Settles O45: the selected key is the low four bits of `V[x]`, and the two instructions skip on its flag and on the flag's
negation. -/
theorem keySkipsFollowLatch : Obligations.KeySkipsFollowLatch := by
  intro x k s hk
  obtain rfl : keySelect (s.readV x) = k := Fin.ext ((keySelect_val _).trans hk)
  exact ⟨exec_skips rfl id id, exec_skips rfl (Bool.not_eq_true' _).mpr (Bool.not_eq_false' _).mpr⟩

/-! ## The wait for a key -/

/-- The search finds the pressed key below which none is pressed (R142). -/
theorem lowestKey_eq_some {k : Reg} (hk : s.readKey k = true) (hlow : ∀ j, j < k → s.readKey j = false) :
    s.lowestKey = some k := by
  refine List.find?_eq_some_iff_getElem.mpr ⟨hk, k.val, by simp, by simp, fun j hj => ?_⟩
  rw [List.getElem_finRange, Bool.not_eq_true']
  exact hlow _ hj

theorem exec_ldVxK_of_lowestKey (x : Reg) {k : Reg} (h : s.lowestKey = some k) :
    exec (.ldVxK x) s = .next (s.writeV x (BitVec.ofNat 8 k.val)) := by
  rw [exec, execLdVxK, h]

theorem exec_ldVxK_of_unpressed (x : Reg) (h : ∀ k, s.readKey k = false) :
    exec (.ldVxK x) s = .next (s.writePc (s.pc - 2)) := by
  rw [exec, execLdVxK, (lowestKey_eq_none s).mpr h]

/-- The advance and the rewind of `pc` cancel, so that a waiting tick changes the timers and `IR` alone (R82, R142). -/
theorem frame_waiting_tick (s : State) (w : Word) :
    FrameExcept s ((s.advance w).writePc (s.pc + 2 - 2)).timerTick {.dt, .st, .ir} := by
  intro p hp
  cases p with
  | pc => exact BitVec.add_sub_cancel s.pc 2
  | dt | st | ir => simp at hp
  | _ => rfl

/-- Settles O46, by the two ends of `LD Vx, K`: the write of the key found, and the rewind, whose tick goes back to the same
`pc`. -/
theorem waitForKeyRepeats : Obligations.WaitForKeyRepeats := by
  refine fun x s => ⟨fun k hk hlow => ?_, fun hnone => ?_, fun hnone hrun => ?_⟩
  · refine ⟨_, exec_ldVxK_of_lowestKey x (lowestKey_eq_some hk hlow), ?_, frame_writeV s x _⟩
    rw [readV_writeV_same, BitVec.toNat_ofNat, Nat.mod_eq_of_lt (k.isLt.trans (by decide))]
  · exact ⟨_, exec_ldVxK_of_unpressed x hnone, rfl, frame_writePc s _⟩
  · obtain ⟨w, hstep⟩ := hrun.step_eq
    have hframe := frame_waiting_tick s w
    exact ⟨_, hstep (exec_ldVxK_of_unpressed x hnone) rfl, hframe .pc (by simp), countDown_toNat s.dt, countDown_toNat s.st,
      hframe⟩

/-! ## Timer transfers -/

/-- Settles O47: each transfer is one write, and the count of its own tick finds what the write left in the timers. -/
theorem timerTransfers : Obligations.TimerTransfers := by
  refine fun x s => ⟨⟨_, rfl, readV_writeV_same s x _, frame_writeV s x _⟩, ⟨_, rfl, rfl, frame_writeDt s _⟩,
    ⟨_, rfl, rfl, frame_writeSt s _⟩, fun hrun => ?_, fun hrun => ?_, fun hrun => ?_⟩
  · obtain ⟨w, hstep⟩ := hrun.step_eq
    exact ⟨_, hstep rfl rfl, readV_writeV_same (s.advance w) x s.dt, countDown_toNat s.dt⟩
  · obtain ⟨w, hstep⟩ := hrun.step_eq
    exact ⟨_, hstep rfl rfl, countDown_toNat (s.readV x), countDown_toNat s.st⟩
  · obtain ⟨w, hstep⟩ := hrun.step_eq
    exact ⟨_, hstep rfl rfl, countDown_toNat (s.readV x), countDown_toNat s.dt⟩

end Sys2Proof.Machine
end

section
/-! Faults and the host (`60_exceptions.md`): what a faulting tick changes, which tick latches which cause, and what the host's
moves keep. -/

namespace Sys2Proof.Machine

open Sys2Proof

variable {s t : State} {i : Instr} {c : Cause}

/-! ## Precise faults -/

/-- An instruction that changes the latch changes nothing else (R156, R157). -/
theorem Effect.eq_raise (h : Effect s i t) (hfault : t.fault ≠ s.fault) : t = s.raise t.fault := by
  cases h with
  | overflow | underflow | badAccess => rfl
  | _ => exact absurd rfl hfault

/-- Settles O13: only a fetch or an instruction latches a fault, an instruction that does changes the latch of the advanced state
alone, and the timers do not count on a halted core. -/
theorem faultsArePrecise : Obligations.FaultsArePrecise := by
  intro s t hs h ht
  obtain ⟨hh, -⟩ | ⟨-, hf, rfl⟩ | ⟨w, -, -, -, rfl⟩ | ⟨w, i, u, -, hf, -, hu, rfl⟩ := step_cases h
  · exact absurd hs ((State.halted_iff s).mp hh)
  · exact .inl ⟨fetch_eq_none.mp hf, rfl⟩
  · exact absurd ((State.finishTick_fault (s.advance w)).trans hs) ht
  · have hne : u.fault ≠ .none := by rwa [State.finishTick_fault] at ht
    have hraise : u = (s.advance w).raise u.fault := (exec_effect hu).eq_raise fun e => hne (e.trans hs)
    rw [finishTick_eq, if_neg hne]
    exact .inr ⟨w, hf, hraise⟩

/-! ## The origin of each cause -/

/-- What in the state before a tick makes the tick latch a cause (R152 to R154). -/
inductive FaultOrigin (s : State) : Cause → Prop where
  | fetch (hpc : 0xFFE < s.pc.toNat) : FaultOrigin s .addressOutOfRange
  | access (i : Instr) (hrun : s.runs i) (hbad : rangeOk s.base i.accessBytes = false) : FaultOrigin s .addressOutOfRange
  | overflow (nnn : Addr) (hrun : s.runs (.call nnn)) (hfull : s.sp.val = 16) : FaultOrigin s .stackOverflow
  | underflow (hrun : s.runs .ret) (hempty : s.sp.val = 0) : FaultOrigin s .stackUnderflow

/-- The advance of a tick touches neither `sp` nor `I`, so a fault of its execute step has its origin in the old state. -/
theorem Effect.faultOrigin {w : Word} (h : Effect (s.advance w) i t) (hrun : s.runs i) (hfault : t.fault ≠ s.fault) :
    FaultOrigin s t.fault := by
  cases h with
  | overflow hfull => exact .overflow _ hrun hfull
  | underflow hempty => exact .underflow hrun hempty
  | badAccess hbad => exact .access i hrun hbad
  | _ => exact absurd rfl hfault

/-- A tick whose instruction raises a cause latches it. -/
theorem State.runs.step_fault_eq (hrun : s.runs i) (hexec : ∀ w, exec i (s.advance w) = .next ((s.advance w).raise c))
    (h : step s = .next t) : t.fault = c := by
  obtain ⟨hh, w, hf, hd⟩ := hrun
  rw [step_of_fetch hh hf, executeIr_of_decode hd, hexec w, endTick_next] at h
  rw [← Host.Outcome.next.inj h, State.finishTick_fault, State.raise_fault]

/-- A tick of a running core latches a cause exactly when the cause has an origin. -/
theorem step_fault_iff (hs : s.fault = .none) (h : step s = .next t) (hc : c ≠ .none) : t.fault = c ↔ FaultOrigin s c := by
  constructor
  · rintro rfl
    obtain ⟨-, rfl⟩ | ⟨-, hf, rfl⟩ | ⟨w, -, -, -, rfl⟩ | ⟨w, i, u, hh, hf, hd, hu, rfl⟩ := step_cases h
    · exact absurd hs hc
    · exact .fetch (fetch_eq_none.mp hf)
    · exact absurd ((State.finishTick_fault (s.advance w)).trans hs) hc
    · rw [State.finishTick_fault] at hc ⊢
      exact (exec_effect hu).faultOrigin ⟨hh, w, hf, hd⟩ fun e => hc (e.trans hs)
  · rintro (hpc | ⟨i, hrun, hbad⟩ | ⟨nnn, hrun, hfull⟩ | ⟨hrun, hempty⟩)
    · obtain rfl := Host.Outcome.next.inj
        ((step_of_fetch_none ((State.halted_eq_false s).mpr hs) (fetch_eq_none.mpr hpc)).symm.trans h)
      rfl
    · exact hrun.step_fault_eq (fun w => exec_of_bad_access hbad) h
    · exact hrun.step_fault_eq (fun w => exec_call_of_full nnn hfull) h
    · exact hrun.step_fault_eq (fun w => exec_ret_of_empty hempty) h

/-- The accesses that reach above `0xFFF`, instruction by instruction (R154); an instruction that accesses no byte reaches
nowhere. -/
theorem faultOrigin_addressOutOfRange_iff : FaultOrigin s .addressOutOfRange ↔
    0xFFE < s.pc.toNat ∨ (∃ x, s.runs (.ldB x) ∧ 0xFFF < s.i.toNat + 2) ∨
    (∃ x, s.runs (.dump x) ∧ 0xFFF < s.i.toNat + x.val) ∨ (∃ x, s.runs (.load x) ∧ 0xFFF < s.i.toNat + x.val) ∨
    (∃ x y n, s.runs (.drw x y n) ∧ 0 < n ∧ 0xFFF < s.i.toNat + n - 1) := by
  constructor
  · rintro (hpc | ⟨i, hrun, hbad⟩)
    · exact .inl hpc
    · obtain ⟨hn, hreach⟩ := (rangeOk_eq_false _ _).mp hbad
      cases i with
      | ldB x => exact .inr (.inl ⟨x, hrun, hreach⟩)
      | dump x => exact .inr (.inr (.inl ⟨x, hrun, hreach⟩))
      | load x => exact .inr (.inr (.inr (.inl ⟨x, hrun, hreach⟩)))
      | drw x y n => exact .inr (.inr (.inr (.inr ⟨x, y, n, hrun, Nat.pos_of_ne_zero hn, hreach⟩)))
      | _ => exact absurd rfl hn
  · have access {i : Instr} (hrun : s.runs i) (hn : i.accessBytes ≠ 0) (hreach : 0xFFF < s.i.toNat + i.accessBytes - 1) :
        FaultOrigin s .addressOutOfRange := .access i hrun ((rangeOk_eq_false _ _).mpr ⟨hn, hreach⟩)
    rintro (hpc | ⟨x, hrun, hreach⟩ | ⟨x, hrun, hreach⟩ | ⟨x, hrun, hreach⟩ | ⟨x, y, n, hrun, hn, hreach⟩)
    · exact .fetch hpc
    · exact access hrun (Nat.succ_ne_zero 2) hreach
    · exact access hrun (Nat.succ_ne_zero x.val) hreach
    · exact access hrun (Nat.succ_ne_zero x.val) hreach
    · exact access hrun hn.ne' hreach

/-- Settles O14: each cause is latched exactly by its origins, and `InvalidProgramSize` has none. -/
theorem faultCausesHaveTheirOrigins : Obligations.FaultCausesHaveTheirOrigins := by
  intro s t hs h
  have horigin {c : Cause} (hc : c ≠ .none) : t.fault = c ↔ FaultOrigin s c := step_fault_iff hs h hc
  refine ⟨fun he => ?_, ?_, ?_, ?_⟩
  · nomatch (horigin (by decide)).mp he
  · exact (horigin (by decide)).trans
      ⟨fun | .overflow nnn hrun hfull => ⟨hfull, nnn, hrun⟩, fun ⟨hfull, nnn, hrun⟩ => .overflow nnn hrun hfull⟩
  · exact (horigin (by decide)).trans
      ⟨fun | .underflow hrun hempty => ⟨hempty, hrun⟩, fun ⟨hempty, hrun⟩ => .underflow hrun hempty⟩
  · exact (horigin (by decide)).trans faultOrigin_addressOutOfRange_iff

/-! ## The host's moves -/

/-- Settles O51, by the frame of the key write. -/
theorem keyWriteChangesOneFlag : Obligations.KeyWriteChangesOneFlag :=
  fun s k pressed => ⟨_, rfl, readKey_writeKey_same s k pressed, frame_writeKey s k pressed⟩

/-- An image of a length that reset accepts (R181) ends at or below the last cell. -/
theorem loadImage_wf {image : List Byte} (h : image.length ≤ 3584) : (loadImage image).wf = true :=
  Memory.setBlock_wf [] image 0x200 rfl (Nat.add_le_add_left h 0x200)

/-- A reset that answers a state answers the reset state with the image in memory; only the position in the `RND` input is the
old one (R180 to R182). -/
theorem hostReset_eq_next {image : List Byte} (h : hostReset image s = .next t) :
    image.length ≤ 3584 ∧ t = { State.reset.writeMem (loadImage image) with rndCount := s.rndCount } := by
  by_cases hlen : image.length ≤ 3584
  · rw [hostReset, construct, if_pos hlen] at h
    exact ⟨hlen, (Host.Outcome.next.inj h).symm⟩
  · rw [hostReset, construct, if_neg hlen] at h
    cases h

theorem hostEvent_keeps_inv (e : HostEvent) (hs : s.Inv) (h : hostEvent e s = .next t) : t.Inv := by
  cases e with
  | tick => exact stepKeepsMachineInvariant s t hs h
  | keyWrite k pressed =>
    obtain rfl := Host.Outcome.next.inj h
    exact hs.of_eq rfl rfl rfl
  | reset image =>
    obtain ⟨hlen, rfl⟩ := hostReset_eq_next h
    exact (resetMeetsMachineInvariant.writeMem (loadImage_wf hlen)).of_eq rfl rfl rfl

/-- A run that answers a state got one from its first interaction and went on from there. -/
theorem hostRun_cons_eq_next {e : HostEvent} {es : List HostEvent} (h : hostRun (e :: es) s = .next t) :
    ∃ u, hostEvent e s = .next u ∧ hostRun es u = .next t := by
  rw [hostRun] at h
  cases he : hostEvent e s with
  | next u => exact ⟨u, rfl, by rwa [he] at h⟩
  | fault r => rw [he] at h; cases h
  | refused r => rw [he] at h; cases h

/-- Settles O12, by induction on the interactions: each keeps the invariant. -/
theorem hostRunKeepsMachineInvariant : Obligations.HostRunKeepsMachineInvariant := by
  intro es
  induction es with
  | nil =>
    intro s t hs h
    exact Host.Outcome.next.inj h ▸ hs
  | cons e es ih =>
    intro s t hs h
    obtain ⟨u, hu, hrest⟩ := hostRun_cons_eq_next h
    exact ih u t (hostEvent_keeps_inv e hs hu) hrest

end Sys2Proof.Machine
end

section
/-! Reset with a program image (`70_reset_and_hazards.md` R180, R181): the image in memory, and the image that is too long. -/

namespace Sys2Proof.Machine

open Sys2Proof

variable {image : List Byte} (s : State)

/-! ## The two outcomes of a reset -/

theorem hostReset_of_fits (h : image.length ≤ 3584) :
    hostReset image s = .next { State.reset.writeMem (loadImage image) with rndCount := s.rndCount } := by
  rw [hostReset, construct, if_pos h]

theorem hostReset_of_too_long (h : 3584 < image.length) : hostReset image s = .fault .invalidProgramSize := by
  rw [hostReset, construct, if_neg (Nat.not_le_of_lt h)]

/-! ## The image in memory -/

/-- An image of a length that reset accepts ends at or below `0xFFF`, so each of its bytes has an address that exists. -/
theorem readByte_loadImage_inside {k : Nat} (hlen : image.length ≤ 3584) (hk : k < image.length) :
    (State.reset.writeMem (loadImage image)).readByte (0x200 + k) = some image[k] :=
  readByte_setBlock_inside State.reset image 0x200 k hk (by omega)

theorem readByte_loadImage_outside {a : Nat} (h : a < 0x200 ∨ 0x200 + image.length ≤ a) :
    (State.reset.writeMem (loadImage image)).readByte a = State.reset.readByte a :=
  readByte_setBlock_outside State.reset image 0x200 a h

/-- Settles O49: a reset that accepts its image writes one block over the reset state, and no byte's read depends on the position
in the `RND` input that it keeps. -/
theorem resetLoadsProgramImage : Obligations.ResetLoadsProgramImage := by
  intro image s
  refine ⟨fun hlen => ⟨_, hostReset_of_fits s hlen, fun k hk => ?_, fun a ha => ?_, rfl, rfl⟩, hostReset_of_too_long s⟩
  · exact (State.readByte_congr rfl _).trans (readByte_loadImage_inside hlen hk)
  · exact (State.readByte_congr rfl _).trans (readByte_loadImage_outside ha)

end Sys2Proof.Machine
end
